-- ==== Sys2Proof/Word.lean ====
section
/-! DEFINITION. The words of the block and what can arrive at its ports.
A byte is 8 bits, a word (TransferWord, command word) 32 bits (00_scope.md R8). -/

namespace Sys2Proof

/-- 8 bits (R8). -/
abbrev Byte := BitVec 8

/-- 32 bits: a TransferWord or a command word (R7 WORD_BITS, R90). -/
abbrev Word := BitVec 32

/-- Where in an Instruction a DCC byte pattern of the opcode table stands (R101, R103 to R108): the
address bytes come first, the command bytes after them; the Idle and the Broadcast Emergency Stop
patterns are whole Instructions. The patterns of different places overlap (`01DCSSSS` is also a
short address), so bytes are read with their place (log 11). -/
inductive Place where
  | address
  | command
  | whole
deriving DecidableEq, Repr

/-- One thing that happens at the block's interfaces (R20, R344): the host offers a command word, the
consumer pops, the platform drives `rst`. The last two are the model's own: the packet encoder emits
one byte pattern, or one framed packet, of the opcode table (log 10). -/
inductive Input where
  | cmd (w : Word)
  | pop
  | rst (level : Bool)
  | wire (place : Place) (bytes : List Byte)
  | frame (words : List Word)
deriving DecidableEq, Repr

/-- One bit of a `BitVec`. -/
def bit1 (b : Bool) : BitVec 1 := BitVec.ofBool b

end Sys2Proof
end

