-- ==== Sys2Proof/Config.lean ====
section
/-! DEFINITION. The parameters of 00_scope.md R7 and the values the spec leaves free.
The OPEN parameters are a plain structure that State carries unchanged (log 3); the fixed ones are
constants; each free value is an opaque constant with no body. -/

namespace Sys2Proof

/-- The OPEN parameters of R7, and the width of `last_ma`, which R31 and R343 leave to the build. -/
structure Config where
  /-- N_LOCO, capacity of the registry. -/
  nLoco : Nat
  /-- ADC_BITS, width of a raw current-sense code. -/
  adcBits : Nat
  /-- GAIN_NUM. -/
  gainNum : Nat
  /-- GAIN_DEN. -/
  gainDen : Nat
  /-- BIAS_MA. -/
  biasMa : Nat
  /-- The signed width of `last_ma`, "at least 17 bits" (R31). -/
  maBits : Nat
deriving DecidableEq, Repr

/-- The test defaults of 92_eei_decisions.md "Open parameters", and the least width of `last_ma` (log 3). -/
def Config.default : Config := ⟨16, 12, 1, 1, 0, 17⟩

/-- The number fits the signed width of `last_ma` (R31, R343). -/
def Config.maFits (c : Config) (ma : Int) : Bool := -(2 ^ (c.maBits - 1)) ≤ ma && ma < 2 ^ (c.maBits - 1)

/-- `((2^ADC_BITS - 1) × GAIN_NUM) div GAIN_DEN - BIAS_MA`: the milliamps of the largest code (R343). -/
def Config.largestMa (c : Config) : Int := (((2 ^ c.adcBits - 1) * c.gainNum / c.gainDen : Nat) : Int) - (c.biasMa : Int)

/-- A valid configuration (R343), with the least width of `last_ma` (R31). -/
def Config.valid (c : Config) : Bool :=
  1 ≤ c.nLoco && c.nLoco ≤ 256 && 1 ≤ c.adcBits && c.adcBits ≤ 16 && 1 ≤ c.gainNum && 1 ≤ c.gainDen &&
    17 ≤ c.maBits && c.maFits c.largestMa

/-- PREAMBLE_MIN (R7, R192). -/
abbrev preambleMin : Nat := 14

/-- N_SAMPLES (R7, R251). -/
abbrev nSamples : Nat := 200

/-- ALPHA_NUM (R7). -/
abbrev alphaNum : Nat := 7

/-- ALPHA_DEN (R7). -/
abbrev alphaDen : Nat := 40

/-- THRESH_MA (R7, R253). -/
abbrev threshMa : Int := 1000

/-- CHECK_INTERVAL_MS (R7, R277). -/
abbrev checkIntervalMs : Nat := 100

/-- N_FN - 1, the highest function index (R7). -/
abbrev maxFn : Nat := 12

/-- EMERG_REPEAT (R7). -/
abbrev emergRepeat : Nat := 5

/-- BANK_WORDS = max(10, 8 × N_LOCO) (R7, R343). -/
def Config.bankWords (c : Config) : Nat := max 10 (8 * c.nLoco)

/-- IDLE_SEQ (R29, R198). -/
def idleSeq : List Word := [0xFFFFFFFF#32, 0xF7F801FF#32]

/-- EMERG_PKT (R29, R199). -/
def emergPkt : List Word := [0xFFFFFFFF#32, 0xF0000403#32]

/-- EMERG_SEQ, EMERG_PKT five times (R29, R199). -/
def emergSeq : List Word := (List.replicate emergRepeat emergPkt).flatten

/-- FREE VALUE. The ADC code the environment answers when State lists none (R250 "under no law"; log 5). -/
opaque Config.adcReading : Nat → BitVec 16

/-- FREE VALUE. The reading of `now_ms` when State lists none (R318; log 5). -/
opaque Config.timeReading : Nat → BitVec 32

/-- FREE VALUE. The word at an index of bank 0 (false) or 1 (true) that nothing has written (R341,
93_implementation_defined.md U5; log 2). -/
opaque Config.unwrittenWord : Bool → Nat → Word

/-- FREE VALUE. What `last_ma` of `bits` bits holds after a sample whose milliamps do not fit it: R31 and R251 state no
result there (log 22). -/
opaque Config.unfitMa (bits : Nat) (ma : Int) : BitVec bits

end Sys2Proof
end

