-- ==== Sys2Proof/Machine/State.lean ====
section
/-! DEFINITION. The state of the block as plain data (10_state.md), its reasons to stop, and reset (R33).
Fields the spec does not name (`cfg`, `env`, `obs`, `enc`) are the model's own: INVENTORY.md lists them. -/

namespace Sys2Proof.Machine

/-- A registry slot in use (R22). -/
structure Slot where
  /-- The decoder address. -/
  addr : BitVec 14
  /-- The `useLongAddress` flag. -/
  long : Bool
  /-- 0 = 128 steps, 1 = 28 steps, 2 = 14 steps. -/
  mode : BitVec 2
  dir : Bool
  /-- Signed, as given to DRIVE. -/
  speed : BitVec 8
  /-- Function-group byte of group 0, prefix included. -/
  fg0 : Byte
  /-- Function-group byte of group 1, prefix included. -/
  fg1 : Byte
  /-- Function-group byte of group 2, prefix included. -/
  fg2 : Byte
  dirty : Bool
deriving DecidableEq, Repr

/-- The words of a transmit bank: (index, word), indices strictly rising; an index that is not listed
has no value (R28, R64, R341; log 1, log 2). -/
abbrev Memory := List (Nat × Word)

/-- A transmit bank (R28). -/
structure Bank where
  len : Nat
  w : Memory
deriving DecidableEq, Repr

/-- The two transmit banks and the consumer's pointer (R23, R24, R28). `active` false is bank 0. -/
structure TxBuffer where
  bank0 : Bank
  bank1 : Bank
  active : Bool
  pending : Bool
  rd : Nat
deriving DecidableEq, Repr

/-- The CurrentMonitor's registers (R31, R32); their widths are an invariant (log 15). -/
structure Monitor where
  acc : Nat
  peak : Nat
  lastMa : Int
  lastCheckMs : BitVec 32
deriving DecidableEq, Repr

/-- The three output lines (R34). -/
structure Lines where
  brake : Bool
  pwmEn : Bool
  pwrEn : Bool
deriving DecidableEq, Repr

/-- The command and response ports (R20, R97): a LOOP that was accepted and is held (R226), and the
response register. -/
structure Port where
  held : Bool
  rspValid : Bool
  rsp : BitVec 16
deriving DecidableEq, Repr

/-- The model's own: what the outside does next (log 4, log 5, log 9). -/
structure Env where
  /-- The present level of the `rst` input. -/
  rst : Bool
  /-- What happens at the interfaces, oldest first. -/
  inputs : List Input
  /-- The ADC codes the environment answers next, oldest first. -/
  adc : List (BitVec 16)
  /-- How many ADC draws a free value has answered. -/
  adcFree : Nat
  /-- The readings of `now_ms` the environment answers next, oldest first. -/
  time : List (BitVec 32)
  /-- How many time draws a free value has answered. -/
  timeFree : Nat
deriving DecidableEq, Repr

/-- The model's own: the record of what the outside has seen (R344; log 19), oldest first. -/
structure Obs where
  /-- The responses, one per command taken. -/
  responses : List (BitVec 16)
  /-- The words `pop` has returned. -/
  popped : List Word
  /-- The lines after each single line write. -/
  lineTrace : List Lines
deriving DecidableEq, Repr

/-- The model's own: what the packet encoder is emitting through the WIRE rows (log 10). -/
structure Encoder where
  instr : List Byte
  seq : List Word
deriving DecidableEq, Repr

/-- The state of the block (10_state.md). -/
structure State where
  cfg : Config
  slots : List Slot
  regDirty : Bool
  power : Bool
  estop : Bool
  ocLatch : Bool
  /-- Sticky fault record (R25). -/
  fault : BitVec 4
  tx : TxBuffer
  mon : Monitor
  lines : Lines
  port : Port
  env : Env
  obs : Obs
  enc : Encoder
deriving DecidableEq, Repr

/-- Why a step stops the machine with a fault. The fault kinds of the spec (R301 to R304) are not here:
the block goes on after them, so they are next states. -/
inductive Fault where
  /-- Raised by the hand-off for a sequence longer than BANK_WORDS: the spec has no such word (R28,
  R225). Safe; out of reach while `n_loco ≤ N_LOCO` (R222; log 14). -/
  | bankOverflow
deriving DecidableEq, Repr

/-- Why a step is refused. CmdRefused (R307) is not here: it is a response, so a next state. -/
inductive Refusal where
  /-- No meaning for the instruction yet. Raised by no arm of this model. Safe. -/
  | notModelled (mnemonic : String)
  /-- Raised by the fetch of bytes or words, given as an emission of the packet encoder, that are no
  pattern of the opcode table. Safe; no command leads there (log 13). -/
  | noWirePattern
deriving DecidableEq, Repr

/-- The fault kinds of the block (R301 to R304). -/
inductive FaultKind where
  | overcurrent
  | powerOff
  | unsupportedMode
  | invalidLength
deriving DecidableEq, Repr

/-- The number of slots in use (R21): the length of the registry. -/
def State.nLoco (s : State) : Nat := s.slots.length

/-- Reset (R33, R340) with the parameters `c`. The table's values; `rsp` 0 is a DESIGN CHOICE (log 7). -/
def State.resetWith (c : Config) : State where
  cfg := c
  slots := []
  regDirty := false
  power := false
  estop := false
  ocLatch := false
  fault := 0b0000#4
  tx := { bank0 := ⟨2, [(0, 0xFFFFFFFF#32), (1, 0xF7F801FF#32)]⟩, bank1 := ⟨2, []⟩, active := false,
          pending := false, rd := 0 }
  mon := { acc := 0, peak := 0, lastMa := 0, lastCheckMs := 0#32 }
  lines := { brake := true, pwmEn := false, pwrEn := false }
  port := { held := false, rspValid := false, rsp := 0#16 }
  env := { rst := false, inputs := [], adc := [], adcFree := 0, time := [], timeFree := 0 }
  obs := { responses := [], popped := [], lineTrace := [] }
  enc := { instr := [], seq := [] }

/-- The machine right after reset, with the test defaults of the parameters (R33; log 3). -/
def State.reset : State := State.resetWith Config.default

end Sys2Proof.Machine
end

