-- ==== Sys2Proof/Machine/Ops.lean ====
section
/-! DEFINITION. The named operations over the banks, the registry, the ports and the draws, and taking a
fault as one shared operation. There is no return from a fault (R314), so there is no second operation
beside it. -/

namespace Sys2Proof.Machine

/-! ### Bank words (R10, R28, R225) -/

/-- Word `i` of a bank, if anything has written it. -/
def Memory.read : Memory → Nat → Option Word
  | [], _ => none
  | (j, v) :: m, i => if i = j then some v else Memory.read m i

/-- `MemWrite`: word `i` becomes `v`, in canonical form. -/
def Memory.write : Memory → Nat → Word → Memory
  | [], i, v => [(i, v)]
  | (j, u) :: m, i, v =>
    if i < j then (i, v) :: (j, u) :: m
    else if i = j then (i, v) :: m
    else (j, u) :: Memory.write m i v

/-- Every index of the list is above `i`. -/
def Memory.above (i : Nat) (m : Memory) : Bool := m.all (fun c => i < c.1)

/-- The canonical form: indices strictly rising. -/
def Memory.wf : Memory → Bool
  | [] => true
  | (j, _) :: m => Memory.above j m && Memory.wf m

/-- Writing a sequence from index `i` up (R225). -/
def Memory.writeFrom : Memory → Nat → List Word → Memory
  | m, _, [] => m
  | m, i, v :: vs => Memory.writeFrom (Memory.write m i v) (i + 1) vs

/-- The bank `b`, false for bank 0 (R28). -/
def TxBuffer.bank (t : TxBuffer) (b : Bool) : Bank := if b then t.bank1 else t.bank0

/-- The bank `b` replaced. -/
def TxBuffer.setBank (t : TxBuffer) (b : Bool) (k : Bank) : TxBuffer :=
  if b then { t with bank1 := k } else { t with bank0 := k }

/-- `MemRead(b, i, 1)` (R10): the word, or a free value where nothing has written it (R341; log 2). -/
def TxBuffer.readWord (t : TxBuffer) (b : Bool) (i : Nat) : Word :=
  match (t.bank b).w.read i with
  | some v => v
  | none => Config.unwrittenWord b i

/-- `tx_word` (R20, R63): the next TransferWord, shown at all times. -/
def State.txWord (s : State) : Word := s.tx.readWord s.tx.active s.tx.rd

/-! ### The response port (R97, R98) -/

/-- Status OK. -/
def statusOk : BitVec 4 := 0x0#4

/-- Status CmdRefused. -/
def statusRefused : BitVec 4 := 0xF#4

/-- The status code of a fault kind (R98). -/
def FaultKind.status : FaultKind → BitVec 4
  | .overcurrent => 0x1#4
  | .powerOff => 0x2#4
  | .unsupportedMode => 0x3#4
  | .invalidLength => 0x4#4

/-- The response word: `value` in 15:8, 0 in 7:4, `status` in 3:0 (R97). -/
def rspWord (status : BitVec 4) (value : BitVec 8) : BitVec 16 :=
  value.setWidth 16 <<< 8 ||| status.setWidth 16

/-- The command ends with this response (R97, R300). -/
def respond (status : BitVec 4) (value : BitVec 8) (s : State) : State :=
  { s with
    port := { s.port with rspValid := true, rsp := rspWord status value }
    obs := { s.obs with responses := s.obs.responses ++ [rspWord status value] } }

/-- `return OK` (R97). -/
def ok (s : State) : State := respond statusOk 0#8 s

/-- `refuse` (R10, R307): CmdRefused, and nothing else changes. -/
def refuse (s : State) : State := respond statusRefused 0#8 s

/-! ### Taking a fault (R300, R310, R313) -/

/-- The sticky bit of a fault kind (R25, R310). -/
def FaultKind.bit : FaultKind → BitVec 4
  | .overcurrent => 0b0001#4
  | .powerOff => 0b0010#4
  | .unsupportedMode => 0b0100#4
  | .invalidLength => 0b1000#4

/-- The sticky bit is set, whether or not it was already 1 (R310). -/
def recordFault (k : FaultKind) (s : State) : State := { s with fault := s.fault ||| k.bit }

/-- `raise` (R10, R300): the sticky bit, then the response with the fault's status; what was written
before stays. -/
def raise (k : FaultKind) (s : State) : State := respond k.status 0#8 (recordFault k s)

/-- The end of a command whose body either ran through (`ok`) or ended at a raise (`error`, the state
after it). -/
def finish : Except State State → State
  | .ok s => ok s
  | .error s => s

/-! ### Draws of the environment (R10, R250, R318; log 5) -/

/-- The value the next read of `now_ms` gives. -/
def Env.timeNow (e : Env) : BitVec 32 :=
  match e.time with
  | t :: _ => t
  | [] => Config.timeReading e.timeFree

/-- After one read of `now_ms`. -/
def Env.afterTime (e : Env) : Env :=
  match e.time with
  | _ :: ts => { e with time := ts }
  | [] => { e with timeFree := e.timeFree + 1 }

/-- The next `n` readings of an ADC with `bits` output wires, in order: the codes the environment lists,
then free values (R250; log 5, log 6). -/
def Env.readings (bits n : Nat) (e : Env) : List Nat :=
  (e.adc.take n ++ (List.range (n - e.adc.length)).map (fun k => Config.adcReading (e.adcFree + k))).map
    (fun c => c.toNat % 2 ^ bits)

/-- After `n` ADC readings. -/
def Env.afterReadings (n : Nat) (e : Env) : Env :=
  { e with adc := e.adc.drop n, adcFree := e.adcFree + (n - e.adc.length) }

/-- The state after the command's one read of `now_ms` (R318). -/
def takeTime (s : State) : State := { s with env := s.env.afterTime }

/-! ### The registry (R21, R22) -/

/-- The slot of a handle, if it is in use (R99 (f)). -/
def State.slot? (s : State) (h : BitVec 8) : Option Slot := s.slots[h.toNat]?

/-- `slot[h] <- v`. -/
def setSlot (h : BitVec 8) (v : Slot) (s : State) : State := { s with slots := s.slots.set h.toNat v }

/-- Every dirty flag of the registry cleared (R223). -/
def clearDirty (s : State) : State :=
  { s with regDirty := false, slots := s.slots.map (fun v => { v with dirty := false }) }

/-! ### The output lines (R34), one write at a time (R270, R271) -/

/-- The lines become `l`, and the outside sees them. -/
def setLines (l : Lines) (s : State) : State :=
  { s with lines := l, obs := { s.obs with lineTrace := s.obs.lineTrace ++ [l] } }

/-- `brake <- b`. -/
def setBrake (b : Bool) (s : State) : State := setLines { s.lines with brake := b } s

/-- `pwm_en <- b`. -/
def setPwmEn (b : Bool) (s : State) : State := setLines { s.lines with pwmEn := b } s

/-- `pwr_en <- b`. -/
def setPwrEn (b : Bool) (s : State) : State := setLines { s.lines with pwrEn := b } s

end Sys2Proof.Machine
end

