-- ==== Sys2Proof/Machine/Consumer.lean ====
section
/-! DEFINITION. POP, the consumer's step (20_memory.md R63). -/

namespace Sys2Proof.Machine

/-- The consumer's pointer after one word: at the last word it wraps and, with `pending`, the banks are
switched (R63). -/
def TxBuffer.advance (t : TxBuffer) : TxBuffer :=
  if t.rd + 1 = (t.bank t.active).len then
    if t.pending then { t with rd := 0, active := !t.active, pending := false } else { t with rd := 0 }
  else { t with rd := t.rd + 1 }

/-- POP (R63): `tx_word` is returned and the pointer advances, in one step (R64). -/
def execPop (s : State) : Host.Outcome State Fault Refusal :=
  .next { s with tx := s.tx.advance, obs := { s.obs with popped := s.obs.popped ++ [s.txWord] } }

end Sys2Proof.Machine
end

