-- ==== Sys2Proof/Machine/Operands.lean ====
section
/-! DEFINITION. How the operands become the values the rules use (30_encoding.md R100): the signed speed, the
function index with its group, bit and group prefix (41_function_coder.md R150 to R152), and the group bytes of a slot. -/

namespace Sys2Proof.Machine

/-- `sext(arg[7:0])` (R94, R100): −128 to 127. -/
def speedValue (speed : BitVec 8) : Int := speed.toInt

/-- A function group (R150). -/
inductive Group where
  | g0
  | g1
  | g2
deriving DecidableEq, Repr

/-- `groupIndex` (R150). -/
def groupIndex (fn : Nat) : Group := if fn < 5 then .g0 else if fn < 9 then .g1 else .g2

/-- `bitShift` (R151). -/
def bitShift (fn : Nat) : Nat := if fn = 0 then 4 else (fn - 1) % 4

/-- `groupPrefix` (R152). -/
def groupPrefix (fn : Nat) : Byte :=
  match groupIndex fn with
  | .g0 => 0x80#8
  | .g1 => 0x80#8 ||| 0x30#8
  | .g2 => 0x80#8 ||| 0x20#8

/-- `slot[h].fg[g]` (R22). -/
def Slot.fg (v : Slot) : Group → Byte
  | .g0 => v.fg0
  | .g1 => v.fg1
  | .g2 => v.fg2

/-- `slot[h].fg[g] <- b` (R22). -/
def Slot.setFg (v : Slot) (g : Group) (b : Byte) : Slot :=
  match g with
  | .g0 => { v with fg0 := b }
  | .g1 => { v with fg1 := b }
  | .g2 => { v with fg2 := b }

end Sys2Proof.Machine
end

