-- ==== Sys2Proof/Machine/FunctionCoder.lean ====
section
/-! DEFINITION. SET_FN and GET_FN (41_function_coder.md). -/

namespace Sys2Proof.Machine

/-- The group byte after one function is set or cleared, the group prefix ORed in again (R154). -/
def fnByte (b : Byte) (fn : Nat) (on : Bool) : Byte :=
  let m := 1#8 <<< bitShift fn
  (if on then b ||| m else b &&& ~~~m) ||| groupPrefix fn

/-- SET_FN (R154). -/
def execSetFn (h : BitVec 8) (fn : BitVec 5) (on : Bool) (s : State) : Host.Outcome State Fault Refusal :=
  .next <|
    match s.slot? h with
    | none => refuse s
    | some v =>
      if fn.toNat > maxFn then ok s
      else
        let g := groupIndex fn.toNat
        ok (setSlot h { v.setFg g (fnByte (v.fg g) fn.toNat on) with dirty := true } s)

/-- The function's bit of a slot, 0 for an index above 12 (R156). -/
def fnBit (v : Slot) (fn : Nat) : Bool :=
  if fn > maxFn then false else (v.fg (groupIndex fn)).getLsbD (bitShift fn)

/-- GET_FN (R156): the bit is `rsp[8]`. -/
def execGetFn (h : BitVec 8) (fn : BitVec 5) (s : State) : Host.Outcome State Fault Refusal :=
  .next <|
    match s.slot? h with
    | none => refuse s
    | some v => respond statusOk (BitVec.ofNat 8 (fnBit v fn.toNat).toNat) s

end Sys2Proof.Machine
end

