-- ==== Sys2Proof/Machine/Flags.lean ====
section
/-! DEFINITION. The computed flags and the status outputs (10_state.md R24, R27), the hold of LOOP (R226)
and the due time of the periodic check (R277). -/

namespace Sys2Proof.Machine

/-- `any_dirty` (R24): `reg_dirty` or any slot's flag. -/
def State.anyDirty (s : State) : Bool := s.regDirty || s.slots.any (·.dirty)

/-- The condition under which a LOOP is held (R226). -/
def State.holdCond (s : State) : Bool :=
  s.power && !s.ocLatch && s.tx.pending && (s.estop || s.anyDirty)

/-- `(t - last_check_ms) mod 2^32 ≥ CHECK_INTERVAL_MS`, unsigned (R277). -/
def checkDue (t : BitVec 32) (s : State) : Bool := checkIntervalMs ≤ (t - s.mon.lastCheckMs).toNat

/-- `cmd_ready` (R20, R226, R340). -/
def State.cmdReady (s : State) : Bool := !s.env.rst && !s.port.held

/-- The status outputs, read-only wires (R27). -/
structure StatusOutputs where
  stPower : Bool
  stEstop : Bool
  stPending : Bool
  stOc : Bool
  stFault : BitVec 4
  stNloco : BitVec 9
  stMa : BitVec 16
deriving DecidableEq, Repr

/-- What the status outputs show (R27). -/
def State.statusOutputs (s : State) : StatusOutputs where
  stPower := s.power
  stEstop := s.estop
  stPending := s.tx.pending
  stOc := s.ocLatch
  stFault := s.fault
  stNloco := BitVec.ofNat 9 s.nLoco
  stMa := BitVec.ofInt 16 s.mon.lastMa

end Sys2Proof.Machine
end

