-- ==== Sys2Proof/Machine/CurrentMonitor.lean ====
section
/-! DEFINITION. The current-sense interlock (45_current_monitor.md): exact fixed-point arithmetic. -/

namespace Sys2Proof.Machine

/-- One reading: `acc <- (7·(raw << 16) + 33·acc) div 40`, `peak <- max(peak, acc)` (R251). -/
def smooth (a : Nat × Nat) (raw : Nat) : Nat × Nat :=
  let acc := (alphaNum * (raw * 2 ^ 16) + (alphaDen - alphaNum) * a.1) / alphaDen
  (acc, max a.2 acc)

/-- `acc` and `peak` after the readings, both from 0 (R251). -/
def smoothAll (raws : List Nat) : Nat × Nat := raws.foldl smooth (0, 0)

/-- `toMilliamps` (R252). -/
def toMilliamps (c : Config) (peak : Nat) : Int :=
  (((peak * c.gainNum + c.gainDen * 2 ^ 15) / (c.gainDen * 2 ^ 16) : Nat) : Int) - (c.biasMa : Int)

/-- The 200 readings of the next `sample()` (R250). -/
def State.sampleReadings (s : State) : List Nat := s.env.readings s.cfg.adcBits nSamples

/-- The milliamps that the next `sample()` returns (R251, R252). -/
def State.sampleMa (s : State) : Int := toMilliamps s.cfg (smoothAll s.sampleReadings).2

/-- `last_ma <- ma` (R251), into a register of `maBits` bits (R31): the milliamps where they fit, a free value
where they do not (log 22). -/
def lastMaOf (c : Config) (ma : Int) : Int := if c.maFits ma then ma else (Config.unfitMa c.maBits ma).toInt

/-- `sample` (R251): 200 readings, `acc`, `peak` and `last_ma` written. -/
def sample (s : State) : State :=
  { s with
    mon := { s.mon with acc := (smoothAll s.sampleReadings).1, peak := (smoothAll s.sampleReadings).2,
                        lastMa := lastMaOf s.cfg s.sampleMa }
    env := s.env.afterReadings nSamples }

/-- `last_check_ms <- t` (R253). -/
def setLastCheck (t : BitVec 32) (s : State) : State := { s with mon := { s.mon with lastCheckMs := t } }

/-- `oc_latch <- 1` (R253). -/
def setOcLatch (s : State) : State := { s with ocLatch := true }

/-- `checkShort` (R253): `error` is the state after the raise of OvercurrentFault. -/
def checkShort (t : BitVec 32) (s : State) : Except State State :=
  if s.sampleMa > threshMa then .error (raise .overcurrent (setOcLatch (setLastCheck t (sample s))))
  else .ok (setLastCheck t (sample s))

end Sys2Proof.Machine
end

