-- ==== Sys2Proof/Machine/SpeedCoder.lean ====
section
/-! DEFINITION. The speed-step coder (40_speed_step_coder.md): pure functions of a direction bit and a
signed speed. -/

namespace Sys2Proof.Machine

/-- `encode128` (R131). -/
def encode128 (dir : Bool) (speed : Int) : Byte :=
  let s := if speed < -1 then -1 else speed
  let code : Nat :=
    if s = -1 then 1
    else if s = 0 then 0
    else (if s < 126 then s + 2 else s).toNat &&& 0x7E
  BitVec.ofNat 8 ((dir.toNat <<< 7) ||| code)

/-- `encode28` (R132). -/
def encode28 (dir : Bool) (speed : Int) : Byte :=
  let s := if speed > 28 then 28 else speed
  let s := if s < -1 then -1 else s
  let codeField : Nat :=
    if s = 0 ∨ s = -1 then 0
    else
      let temp := (s + 3).toNat
      ((temp &&& 1) <<< 4) ||| (temp >>> 1)
  BitVec.ofNat 8 (0x40 ||| (dir.toNat <<< 5) ||| codeField)

/-- `encode14` (R134): no byte; it always raises UnsupportedModeError. -/
def encode14 (_dir : Bool) (_speed : Int) : Except FaultKind Byte := .error .unsupportedMode

end Sys2Proof.Machine
end

