-- ==== Sys2Proof/Machine/Assembler.lean ====
section
/-! DEFINITION. The instruction assembler, CREATE and DRIVE (42_instruction_assembler.md). -/

namespace Sys2Proof.Machine

/-- `addressPrefix` (R170). -/
def addressPrefix (v : Slot) : List Byte :=
  if v.long then [0xC0#8 ||| BitVec.ofNat 8 (v.addr.toNat >>> 8), BitVec.ofNat 8 (v.addr.toNat &&& 0xFF)]
  else [BitVec.ofNat 8 (v.addr.toNat &&& 0xFF)]

/-- `speedInstr` (R172): `error` is the raise of `encode14`. -/
def speedInstr (v : Slot) : Except FaultKind (List Byte) :=
  if v.mode = 0#2 then .ok (addressPrefix v ++ [0x3F#8, encode128 v.dir (speedValue v.speed)])
  else if v.mode = 1#2 then .ok (addressPrefix v ++ [encode28 v.dir (speedValue v.speed)])
  else
    match encode14 v.dir (speedValue v.speed) with
    | .ok b => .ok (addressPrefix v ++ [b])
    | .error k => .error k

/-- `fnInstr` (R173). -/
def fnInstr (v : Slot) (g : Group) : List Byte := addressPrefix v ++ [v.fg g]

/-- The record CREATE makes (R175). -/
def freshSlot (addr : BitVec 14) (long : Bool) (mode : BitVec 2) : Slot where
  addr := addr
  long := long
  mode := mode
  dir := false
  speed := 0#8
  fg0 := 0x80#8
  fg1 := 0xB0#8
  fg2 := 0xA0#8
  dirty := true

/-- CREATE (R175), the refusals in the order of R307. -/
def execCreate (addr : BitVec 14) (long : Bool) (mode : BitVec 2) (s : State) : Host.Outcome State Fault Refusal :=
  .next <|
    if mode = 3#2 then refuse s
    else if long = false ∧ addr.toNat > 127 then refuse s
    else if s.nLoco = s.cfg.nLoco then refuse s
    else
      respond statusOk (BitVec.ofNat 8 s.nLoco) { s with slots := s.slots ++ [freshSlot addr long mode] }

/-- DRIVE (R176): the pair is stored as given. -/
def execDrive (h : BitVec 8) (dir : Bool) (speed : BitVec 8) (s : State) : Host.Outcome State Fault Refusal :=
  .next <|
    match s.slot? h with
    | none => refuse s
    | some v => ok (setSlot h { v with dir := dir, speed := speed, dirty := true } s)

end Sys2Proof.Machine
end

