-- ==== Sys2Proof/Syntax.lean ====
section
/-! DEFINITION. The instructions: one constructor per row of spec/opcode_table.json. -/

namespace Sys2Proof

/-- The rows of the opcode table, in its order (30_encoding.md R92, R93 to R96, R99, R101 to R108;
20_memory.md R63). -/
inductive Instr where
  /-- CREATE address, long, mode (R93, R175). -/
  | create (addr : BitVec 14) (long : Bool) (mode : BitVec 2)
  /-- DRIVE h, direction, speed (R94, R176). -/
  | drive (h : BitVec 8) (dir : Bool) (speed : BitVec 8)
  /-- SET_FN h, fn, on (R95, R154). -/
  | setFn (h : BitVec 8) (fn : BitVec 5) (on : Bool)
  /-- GET_FN h, fn (R95, R156). -/
  | getFn (h : BitVec 8) (fn : BitVec 5)
  /-- BEGIN (R96, R272). -/
  | beginCmd
  /-- DEINIT (R96, R273). -/
  | deinit
  /-- LOOP (R96, R275). -/
  | loop
  /-- ESTOP (R96, R274). -/
  | estop
  /-- POWER_ON (R96, R270). -/
  | powerOn
  /-- POWER_OFF (R96, R271). -/
  | powerOff
  /-- Reserved opcode 0x0 with any 28 bits below it (R99). -/
  | reservedOp0 (any : BitVec 28)
  /-- Reserved opcode 0xB (R99). -/
  | reservedOpB (any : BitVec 28)
  /-- Reserved opcode 0xC (R99). -/
  | reservedOpC (any : BitVec 28)
  /-- Reserved opcode 0xD (R99). -/
  | reservedOpD (any : BitVec 28)
  /-- Reserved opcode 0xE (R99). -/
  | reservedOpE (any : BitVec 28)
  /-- Reserved opcode 0xF (R99). -/
  | reservedOpF (any : BitVec 28)
  /-- Short address byte 0AAAAAAA (R103). -/
  | wireAddrShort (a : BitVec 7)
  /-- Long address bytes 11AAAAAA AAAAAAAA (R103). -/
  | wireAddrLong (a : BitVec 14)
  /-- 128-step speed bytes 00111111 DSSSSSSS (R104). -/
  | wireSpeed128 (d : Bool) (s : BitVec 7)
  /-- 28-step speed byte 01DCSSSS (R105). -/
  | wireSpeed28 (d : Bool) (c : Bool) (s : BitVec 4)
  /-- Function group 0 byte 100FFFFF (R106). -/
  | wireFnGroup0 (f : BitVec 5)
  /-- Function group 1 byte 1011FFFF (R106). -/
  | wireFnGroup1 (f : BitVec 4)
  /-- Function group 2 byte 1010FFFF (R106). -/
  | wireFnGroup2 (f : BitVec 4)
  /-- The Idle Instruction 11111111 00000000 (R108, R198). -/
  | wireIdle
  /-- The Broadcast Emergency Stop Instruction 00000000 00000001 (R108, R199). -/
  | wireBroadcastEstop
  /-- The packet frame around the Instruction's bytes, checksum not among them (R101, R193). -/
  | wirePacket (bytes : List Byte)
  /-- POP, the consumer's step (R63). -/
  | pop
deriving DecidableEq, Repr

end Sys2Proof
end

