-- ==== Sys2Proof/WellFormed.lean ====
section
/-! DEFINITION. Which terms of Instr an encoding can express. The operand fields carry their widths in
their types; the one check left is the number of bytes of a framed Instruction. -/

namespace Sys2Proof

/-- INSTR_MIN to INSTR_MAX bytes, checksum not counted (R7, R190). -/
def legalLength (n : Nat) : Bool := 2 ≤ n && n ≤ 5

/-- An instruction that an encoding of the table expresses (R190 for the packet frame). -/
def Instr.wf : Instr → Bool
  | .create _ _ _ => true
  | .drive _ _ _ => true
  | .setFn _ _ _ => true
  | .getFn _ _ => true
  | .beginCmd => true
  | .deinit => true
  | .loop => true
  | .estop => true
  | .powerOn => true
  | .powerOff => true
  | .reservedOp0 _ => true
  | .reservedOpB _ => true
  | .reservedOpC _ => true
  | .reservedOpD _ => true
  | .reservedOpE _ => true
  | .reservedOpF _ => true
  | .wireAddrShort _ => true
  | .wireAddrLong _ => true
  | .wireSpeed128 _ _ => true
  | .wireSpeed28 _ _ _ => true
  | .wireFnGroup0 _ => true
  | .wireFnGroup1 _ => true
  | .wireFnGroup2 _ => true
  | .wireIdle => true
  | .wireBroadcastEstop => true
  | .wirePacket bytes => legalLength bytes.length
  | .pop => true

end Sys2Proof
end

