-- ==== Sys2Proof/Machine/Framer.lean ====
section
/-! DEFINITION. The NMRA framer with XOR checksum and the word packer (43_framer_packer.md): pure
functions from an Instruction's bytes to TransferWords. -/

namespace Sys2Proof.Machine

/-- `checksum` (R191): the XOR of the bytes, in order, from 0x00. -/
def checksum (bytes : List Byte) : Byte := bytes.foldl (fun c b => c ^^^ b) 0#8

/-- The bits of a byte, bit 7 first (R61 (d), R193). -/
def byteBits (b : Byte) : List Bool :=
  [b.getLsbD 7, b.getLsbD 6, b.getLsbD 5, b.getLsbD 4, b.getLsbD 3, b.getLsbD 2, b.getLsbD 1, b.getLsbD 0]

/-- `frameBitsWith` (R193): P ones, then a zero start bit before every byte, then one stop bit. -/
def frameBitsWith (p : Nat) (allBytes : List Byte) : List Bool :=
  List.replicate p true ++ allBytes.flatMap (fun b => false :: byteBits b) ++ [true]

/-- The minimal length of the frame of m bytes (R192). -/
def minLen (m : Nat) : Nat := preambleMin + 9 * m + 1

/-- `(-minlen) mod 32`, the non-negative remainder (R194, R201). -/
def padLen (m : Nat) : Nat := ((-(minLen m : Int)) % 32).toNat

/-- `frameBits` (R194): the padding is absorbed into the preamble. -/
def frameBits (allBytes : List Byte) : List Bool :=
  frameBitsWith (preambleMin + padLen allBytes.length) allBytes

/-- A word from its 32 bits, bit 31 first (R195). -/
def wordOfBits (bits : List Bool) : Word := bits.foldl (fun w b => (w <<< 1) ||| (bit1 b).setWidth 32) 0#32

/-- `packWords` (R195): word k holds bits 32k to 32k + 31, the first of them in bit 31. -/
def packWords (bits : List Bool) : List Word :=
  (List.range (bits.length / 32)).map (fun k => wordOfBits ((bits.drop (32 * k)).take 32))

/-- The words of a packet whose length is legal: the body of `framePacket` (R190). -/
def packetWords (bytes : List Byte) : List Word := packWords (frameBits (bytes ++ [checksum bytes]))

/-- `framePacket` (R190): `none` is `raise InvalidInstructionLengthError`. -/
def framePacket (bytes : List Byte) : Option (List Word) :=
  if legalLength bytes.length then some (packetWords bytes) else none

/-- The bits of a word in transmission order, bit 31 first (R61 (a)). -/
def wordBits (w : Word) : List Bool := (List.range 32).map (fun j => w.getLsbD (31 - j))

/-- Reading a frame after its preamble (R200 (d)): each zero is followed by 8 data bits; the first one
in a start-bit position is the stop bit, and nothing follows it. -/
def readFrameBytes : List Bool → Option (List Byte)
  | false :: b7 :: b6 :: b5 :: b4 :: b3 :: b2 :: b1 :: b0 :: rest =>
    (readFrameBytes rest).map
      ((bit1 b7 ++ bit1 b6 ++ bit1 b5 ++ bit1 b4 ++ bit1 b3 ++ bit1 b2 ++ bit1 b1 ++ bit1 b0) :: ·)
  | [true] => some []
  | _ => none

/-- The Instruction's bytes carried by the words of one packet, and `none` for words that are no packet
of the block: the bytes read after the preamble's ones, the last of them the checksum, whose frame must
be exactly these words (R190, R200 (d); log 12). -/
def unframe (words : List Word) : Option (List Byte) :=
  match readFrameBytes ((words.flatMap wordBits).dropWhile id) with
  | some all => if framePacket all.dropLast = some words then some all.dropLast else none
  | none => none

end Sys2Proof.Machine
end

