-- ==== Sys2Proof/Machine/TrackBuffer.lean ====
section
/-! DEFINITION. `rebuild`, `handoff` and `tick` (44_track_buffer.md). -/

namespace Sys2Proof.Machine

/-- `framePacket` as a part of a command: the length fault is a raise (R190, R304). -/
def framed (bytes : List Byte) : Except FaultKind (List Word) :=
  match framePacket bytes with
  | some ws => .ok ws
  | none => .error .invalidLength

/-- The four packets of one locomotive: speed, group 0, group 1, group 2 (R221). -/
def slotWords (v : Slot) : Except FaultKind (List Word) :=
  match speedInstr v with
  | .error k => .error k
  | .ok sp =>
    match framed sp, framed (fnInstr v .g0), framed (fnInstr v .g1), framed (fnInstr v .g2) with
    | .ok a, .ok b, .ok c, .ok d => .ok (a ++ b ++ c ++ d)
    | .error k, _, _, _ => .error k
    | _, .error k, _, _ => .error k
    | _, _, .error k, _ => .error k
    | _, _, _, .error k => .error k

/-- The packets of the slots in ascending order; the first raise wins (R221, R312). -/
def registryWords : List Slot → Except FaultKind (List Word)
  | [] => .ok []
  | v :: vs =>
    match slotWords v with
    | .error k => .error k
    | .ok ws =>
      match registryWords vs with
      | .error k => .error k
      | .ok rest => .ok (ws ++ rest)

/-- `rebuild` (R221). -/
def rebuild (s : State) : Except FaultKind (List Word) :=
  if s.nLoco = 0 then .ok idleSeq else registryWords s.slots

/-- `handoff` (R225): the shadow bank from index 0 up, its length, then `pending`. -/
def TxBuffer.handoff (t : TxBuffer) (seq : List Word) : TxBuffer :=
  let b := !t.active
  { t.setBank b ⟨seq.length, (t.bank b).w.writeFrom 0 seq⟩ with pending := true }

/-- The state after a hand-off that fits (R225). -/
def commit (seq : List Word) (s : State) : State := { s with tx := s.tx.handoff seq }

/-- `estop <- 0` (R223). -/
def clearEstop (s : State) : State := { s with estop := false }

/-- `handoff` on the state; `none` where the sequence does not fit a bank (log 14). -/
def handoff (seq : List Word) (s : State) : Option State :=
  if seq.length ≤ s.cfg.bankWords then some (commit seq s) else none

/-- `tick` (R223) and the end of the LOOP that calls it: the Emergency sequence, else a rebuild, else
nothing. A raise of `rebuild` leaves everything as it was (R228). -/
def tick (s : State) : Host.Outcome State Fault Refusal :=
  if s.estop then
    match handoff emergSeq s with
    | some s1 => .next (ok (clearEstop s1))
    | none => .fault .bankOverflow
  else if s.anyDirty then
    match rebuild s with
    | .error k => .next (raise k s)
    | .ok seq =>
      match handoff seq s with
      | some s1 => .next (ok (clearDirty s1))
      | none => .fault .bankOverflow
  else .next (ok s)

end Sys2Proof.Machine
end

