-- ==== Sys2Proof/Machine/PowerLoop.lean ====
section
/-! DEFINITION. Power, emergency stop and the control cycle (46_power_emergency_loop.md). -/

namespace Sys2Proof.Machine

/-- The writes of POWER_ON before its check (R270), the lines in their order. -/
def energise (s : State) : State :=
  { setPwrEn true (setBrake false (setPwmEn true s)) with power := true }

/-- The transition of POWER_ON and BEGIN (R270, R272): one read of the time, the lines, the check. -/
def powerUp (s : State) : State := finish (checkShort s.env.timeNow (energise (takeTime s)))

/-- The writes of POWER_OFF (R271), the lines in their order; DEINIT has them too (R273). -/
def powerDown (s : State) : State :=
  { setPwrEn false (setPwmEn false (setBrake true s)) with estop := false, ocLatch := false, power := false }

/-- POWER_ON (R270). -/
def execPowerOn (s : State) : Host.Outcome State Fault Refusal := .next (powerUp s)

/-- BEGIN (R272): POWER_ON's transition. -/
def execBegin (s : State) : Host.Outcome State Fault Refusal := .next (powerUp s)

/-- POWER_OFF (R271). -/
def execPowerOff (s : State) : Host.Outcome State Fault Refusal := .next (ok (powerDown s))

/-- DEINIT (R273): POWER_OFF, then the registry is emptied. -/
def execDeinit (s : State) : Host.Outcome State Fault Refusal :=
  .next (ok { powerDown s with slots := [], regDirty := true })

/-- ESTOP (R274). -/
def execEstop (s : State) : Host.Outcome State Fault Refusal := .next (ok { s with estop := true })

/-- A LOOP is accepted and its transition does not happen yet (R226; the response port: log 7). -/
def hold (s : State) : State := { s with port := { s.port with held := true, rspValid := false } }

/-- The hold of a LOOP is over (R226). -/
def release (s : State) : State := { s with port := { s.port with held := false } }

/-- LOOP after its one read `t` of the time (R275): the tests in the order of R312. -/
def loopAt (t : BitVec 32) (s : State) : Host.Outcome State Fault Refusal :=
  if s.power = false then .next (raise .powerOff s)
  else if s.ocLatch then .next (raise .overcurrent s)
  else if checkDue t s then
    match checkShort t s with
    | .error s1 => .next s1
    | .ok s1 => tick s1
  else tick s

/-- The transition of a LOOP that is not held (R275). -/
def loopBody (s : State) : Host.Outcome State Fault Refusal := loopAt s.env.timeNow (takeTime s)

/-- LOOP (R226, R275). -/
def execLoop (s : State) : Host.Outcome State Fault Refusal :=
  if s.holdCond then .next (hold s) else loopBody (release s)

end Sys2Proof.Machine
end

