-- ==== Sys2Proof/Machine/Reserved.lean ====
section
/-! DEFINITION. The reserved opcodes (30_encoding.md R99 (a), 60_exceptions.md R307): CmdRefused, no state change. -/

namespace Sys2Proof.Machine

/-- Reserved opcode 0x0 (R99). -/
def execReservedOp0 (_any : BitVec 28) (s : State) : Host.Outcome State Fault Refusal := .next (refuse s)

/-- Reserved opcode 0xB (R99). -/
def execReservedOpB (_any : BitVec 28) (s : State) : Host.Outcome State Fault Refusal := .next (refuse s)

/-- Reserved opcode 0xC (R99). -/
def execReservedOpC (_any : BitVec 28) (s : State) : Host.Outcome State Fault Refusal := .next (refuse s)

/-- Reserved opcode 0xD (R99). -/
def execReservedOpD (_any : BitVec 28) (s : State) : Host.Outcome State Fault Refusal := .next (refuse s)

/-- Reserved opcode 0xE (R99). -/
def execReservedOpE (_any : BitVec 28) (s : State) : Host.Outcome State Fault Refusal := .next (refuse s)

/-- Reserved opcode 0xF (R99). -/
def execReservedOpF (_any : BitVec 28) (s : State) : Host.Outcome State Fault Refusal := .next (refuse s)

end Sys2Proof.Machine
end

