-- ==== Sys2Proof/Decode.lean ====
section
/-! DEFINITION. The decoder and, after it, the encoder (30_encoding.md): what arrives at an interface to an
instruction of the table, total, rejecting by name; and an instruction to what carries it. -/

namespace Sys2Proof

/-- Why something offered at an interface is no instruction of the opcode table. -/
inductive DecodeError where
  /-- A command word that matches no row of R92: a must-be-zero bit is 1 (R99 (b)). -/
  | strayBits
  /-- Bytes that are no address pattern of R103. -/
  | noAddressPattern
  /-- Bytes that are no command pattern of R104 to R106. -/
  | noCommandPattern
  /-- Bytes that are no reserved Instruction of R108. -/
  | noWholePattern
  /-- Words that are no packet of R101 and R102. -/
  | noFrame
  /-- A level of `rst` is no instruction (R340). -/
  | noInstruction
deriving DecidableEq, Repr

/-- A word is a row's when `w & mask = match` (R92). -/
def rowMatches (w pat mask : Word) : Bool := w &&& mask = pat

/-- The command a word is (R92 to R96, R99 (a), (b)). -/
def decodeCmd (w : Word) : Except DecodeError Instr :=
  if rowMatches w 0x10000000#32 0xFFFE0000#32 then
    .ok (.create (w.extractLsb' 0 14) (w.getLsbD 14) (w.extractLsb' 15 2))
  else if rowMatches w 0x20000000#32 0xF00FFE00#32 then
    .ok (.drive (w.extractLsb' 20 8) (w.getLsbD 8) (w.extractLsb' 0 8))
  else if rowMatches w 0x30000000#32 0xF00FFEE0#32 then
    .ok (.setFn (w.extractLsb' 20 8) (w.extractLsb' 0 5) (w.getLsbD 8))
  else if rowMatches w 0x40000000#32 0xF00FFFE0#32 then
    .ok (.getFn (w.extractLsb' 20 8) (w.extractLsb' 0 5))
  else if rowMatches w 0x50000000#32 0xFFFFFFFF#32 then .ok .beginCmd
  else if rowMatches w 0x60000000#32 0xFFFFFFFF#32 then .ok .deinit
  else if rowMatches w 0x70000000#32 0xFFFFFFFF#32 then .ok .loop
  else if rowMatches w 0x80000000#32 0xFFFFFFFF#32 then .ok .estop
  else if rowMatches w 0x90000000#32 0xFFFFFFFF#32 then .ok .powerOn
  else if rowMatches w 0xA0000000#32 0xFFFFFFFF#32 then .ok .powerOff
  else if rowMatches w 0x00000000#32 0xF0000000#32 then .ok (.reservedOp0 (w.extractLsb' 0 28))
  else if rowMatches w 0xB0000000#32 0xF0000000#32 then .ok (.reservedOpB (w.extractLsb' 0 28))
  else if rowMatches w 0xC0000000#32 0xF0000000#32 then .ok (.reservedOpC (w.extractLsb' 0 28))
  else if rowMatches w 0xD0000000#32 0xF0000000#32 then .ok (.reservedOpD (w.extractLsb' 0 28))
  else if rowMatches w 0xE0000000#32 0xF0000000#32 then .ok (.reservedOpE (w.extractLsb' 0 28))
  else if rowMatches w 0xF0000000#32 0xF0000000#32 then .ok (.reservedOpF (w.extractLsb' 0 28))
  else .error .strayBits

/-- The address pattern the bytes are (R103). -/
def decodeAddress : List Byte → Except DecodeError Instr
  | [a] =>
    if a.getLsbD 7 = false then .ok (.wireAddrShort (a.extractLsb' 0 7)) else .error .noAddressPattern
  | [a, b] =>
    if a.extractLsb' 6 2 = 0b11#2 then .ok (.wireAddrLong (a.extractLsb' 0 6 ++ b))
    else .error .noAddressPattern
  | _ => .error .noAddressPattern

/-- The command pattern the bytes are (R104 to R106). -/
def decodeCommand : List Byte → Except DecodeError Instr
  | [b] =>
    if b.extractLsb' 6 2 = 0b01#2 then
      .ok (.wireSpeed28 (b.getLsbD 5) (b.getLsbD 4) (b.extractLsb' 0 4))
    else if b.extractLsb' 5 3 = 0b100#3 then .ok (.wireFnGroup0 (b.extractLsb' 0 5))
    else if b.extractLsb' 4 4 = 0b1011#4 then .ok (.wireFnGroup1 (b.extractLsb' 0 4))
    else if b.extractLsb' 4 4 = 0b1010#4 then .ok (.wireFnGroup2 (b.extractLsb' 0 4))
    else .error .noCommandPattern
  | [a, b] =>
    if a = 0x3F#8 then .ok (.wireSpeed128 (b.getLsbD 7) (b.extractLsb' 0 7))
    else .error .noCommandPattern
  | _ => .error .noCommandPattern

/-- The reserved Instruction the bytes are (R108). -/
def decodeWhole (bytes : List Byte) : Except DecodeError Instr :=
  if bytes = [0xFF#8, 0x00#8] then .ok .wireIdle
  else if bytes = [0x00#8, 0x01#8] then .ok .wireBroadcastEstop
  else .error .noWholePattern

/-- The packet the words are (R101, R102, R200 (d)). -/
def decodeFrame (words : List Word) : Except DecodeError Instr :=
  match Machine.unframe words with
  | some bytes => .ok (.wirePacket bytes)
  | none => .error .noFrame

/-- The decoder. -/
def decode : Input → Except DecodeError Instr
  | .cmd w => decodeCmd w
  | .pop => .ok .pop
  | .wire .address bytes => decodeAddress bytes
  | .wire .command bytes => decodeCommand bytes
  | .wire .whole bytes => decodeWhole bytes
  | .frame words => decodeFrame words
  | .rst _ => .error .noInstruction

/-- A field of a command word with its low bit at `lo` (R8, R90). -/
def fieldAt {n : Nat} (v : BitVec n) (lo : Nat) : Word := v.setWidth 32 <<< lo

/-- A field of a byte with its low bit at `lo` (R8). -/
def byteField {n : Nat} (v : BitVec n) (lo : Nat) : Byte := v.setWidth 8 <<< lo

/-- A command word: `op` in 31:28, `h` in 27:20, the operands below (R90). -/
def cmdWord (op : BitVec 4) (h : BitVec 8) (arg : Word) : Word := fieldAt op 28 ||| fieldAt h 20 ||| arg

/-- The short address byte `0AAAAAAA` (R103). -/
def shortAddrByte (a : BitVec 7) : Byte := byteField a 0

/-- The long address bytes `11AAAAAA AAAAAAAA` (R103). -/
def longAddrBytes (a : BitVec 14) : List Byte := [0xC0#8 ||| byteField (a.extractLsb' 8 6) 0, a.extractLsb' 0 8]

/-- The 128-step speed bytes `00111111 DSSSSSSS` (R104). -/
def speed128Bytes (d : Bool) (s : BitVec 7) : List Byte := [0x3F#8, byteField (bit1 d) 7 ||| byteField s 0]

/-- The 28-step speed byte `01DCSSSS` (R105). -/
def speed28Byte (d c : Bool) (s : BitVec 4) : Byte :=
  0x40#8 ||| byteField (bit1 d) 5 ||| byteField (bit1 c) 4 ||| byteField s 0

/-- The function group 0 byte `100FFFFF` (R106). -/
def fnGroup0Byte (f : BitVec 5) : Byte := 0x80#8 ||| byteField f 0

/-- The function group 1 byte `1011FFFF` (R106). -/
def fnGroup1Byte (f : BitVec 4) : Byte := 0xB0#8 ||| byteField f 0

/-- The function group 2 byte `1010FFFF` (R106). -/
def fnGroup2Byte (f : BitVec 4) : Byte := 0xA0#8 ||| byteField f 0

/-- The Idle Instruction's bytes (R108). -/
def idleBytes : List Byte := [0xFF#8, 0x00#8]

/-- The Broadcast Emergency Stop Instruction's bytes (R108). -/
def emergBytes : List Byte := [0x00#8, 0x01#8]

/-- The encoder: what carries an instruction to the block (R92 to R96), or what the block emits for it
(R101, R103 to R108). -/
def encode : Instr → Input
  | .create a l m => .cmd (cmdWord 0x1#4 0#8 (fieldAt m 15 ||| fieldAt (bit1 l) 14 ||| fieldAt a 0))
  | .drive h d s => .cmd (cmdWord 0x2#4 h (fieldAt (bit1 d) 8 ||| fieldAt s 0))
  | .setFn h f v => .cmd (cmdWord 0x3#4 h (fieldAt (bit1 v) 8 ||| fieldAt f 0))
  | .getFn h f => .cmd (cmdWord 0x4#4 h (fieldAt f 0))
  | .beginCmd => .cmd (cmdWord 0x5#4 0#8 0#32)
  | .deinit => .cmd (cmdWord 0x6#4 0#8 0#32)
  | .loop => .cmd (cmdWord 0x7#4 0#8 0#32)
  | .estop => .cmd (cmdWord 0x8#4 0#8 0#32)
  | .powerOn => .cmd (cmdWord 0x9#4 0#8 0#32)
  | .powerOff => .cmd (cmdWord 0xA#4 0#8 0#32)
  | .reservedOp0 a => .cmd (fieldAt 0x0#4 28 ||| fieldAt a 0)
  | .reservedOpB a => .cmd (fieldAt 0xB#4 28 ||| fieldAt a 0)
  | .reservedOpC a => .cmd (fieldAt 0xC#4 28 ||| fieldAt a 0)
  | .reservedOpD a => .cmd (fieldAt 0xD#4 28 ||| fieldAt a 0)
  | .reservedOpE a => .cmd (fieldAt 0xE#4 28 ||| fieldAt a 0)
  | .reservedOpF a => .cmd (fieldAt 0xF#4 28 ||| fieldAt a 0)
  | .wireAddrShort a => .wire .address [shortAddrByte a]
  | .wireAddrLong a => .wire .address (longAddrBytes a)
  | .wireSpeed128 d s => .wire .command (speed128Bytes d s)
  | .wireSpeed28 d c s => .wire .command [speed28Byte d c s]
  | .wireFnGroup0 f => .wire .command [fnGroup0Byte f]
  | .wireFnGroup1 f => .wire .command [fnGroup1Byte f]
  | .wireFnGroup2 f => .wire .command [fnGroup2Byte f]
  | .wireIdle => .wire .whole idleBytes
  | .wireBroadcastEstop => .wire .whole emergBytes
  | .wirePacket bytes => .frame (Machine.packetWords bytes)
  | .pop => .pop

/-- The first of the places at which the bytes are a pattern of the table: whole, command, address
(log 11). -/
def wireInput (bytes : List Byte) : Input :=
  match decodeWhole bytes with
  | .ok _ => .wire .whole bytes
  | .error _ =>
    match decodeCommand bytes with
    | .ok _ => .wire .command bytes
    | .error _ => .wire .address bytes

/-- What an opcode-table row's bits are at the interfaces. Bit 0 of `w` is the least significant bit of
the row's one number, as the table has it: a command is one 32-bit word, two wire bytes are one 16-bit
number with the byte sent first above, a packet is one number of 64 or 96 bits with the word sent first
above, and POP has no bits (log 11). -/
def tableInput (nbits w : Nat) : Input :=
  if nbits = 0 then .pop
  else if nbits = 8 then wireInput [BitVec.ofNat 8 w]
  else if nbits = 16 then wireInput [BitVec.ofNat 8 (w / 2 ^ 8), BitVec.ofNat 8 w]
  else if nbits = 64 then .frame [BitVec.ofNat 32 (w / 2 ^ 32), BitVec.ofNat 32 w]
  else if nbits = 96 then
    .frame [BitVec.ofNat 32 (w / 2 ^ 64), BitVec.ofNat 32 (w / 2 ^ 32), BitVec.ofNat 32 w]
  else .cmd (BitVec.ofNat 32 w)

/-- The instruction the decoder reads from a row of the opcode table whose bits are `w`. -/
def decodeTableWord (nbits w : Nat) : Option Instr :=
  match decode (tableInput nbits w) with
  | .ok i => some i
  | .error _ => none

end Sys2Proof
end

