-- ==== Sys2Proof/Machine/Wire.lean ====
section
/-! DEFINITION. The ten wire patterns of the opcode table, each as the step of the packet encoder that emits
it (R170, R172, R173, R193, R198, R199): an address pattern begins an Instruction, a command pattern
follows it, and a whole packet goes to the end of the sequence being built. The encoder's two fields are the
model's own (log 10); nothing else of the state is touched but by the raise of R190. -/

namespace Sys2Proof.Machine

/-- An Instruction begins with its address bytes (R171). -/
def emitAddress (bytes : List Byte) (s : State) : State := { s with enc := { s.enc with instr := bytes } }

/-- Command bytes follow what the Instruction holds (R171). -/
def emitCommand (bytes : List Byte) (s : State) : State :=
  { s with enc := { s.enc with instr := s.enc.instr ++ bytes } }

/-- A packet's words go to the end of the sequence; no Instruction is left over (R171, R221). -/
def emitPacket (words : List Word) (s : State) : State :=
  { s with enc := { instr := [], seq := s.enc.seq ++ words } }

/-- WIRE_ADDR_SHORT (R103, R170). -/
def execWireAddrShort (a : BitVec 7) (s : State) : Host.Outcome State Fault Refusal :=
  .next (emitAddress [shortAddrByte a] s)

/-- WIRE_ADDR_LONG (R103, R170). -/
def execWireAddrLong (a : BitVec 14) (s : State) : Host.Outcome State Fault Refusal :=
  .next (emitAddress (longAddrBytes a) s)

/-- WIRE_SPEED128 (R104, R172). -/
def execWireSpeed128 (d : Bool) (c : BitVec 7) (s : State) : Host.Outcome State Fault Refusal :=
  .next (emitCommand (speed128Bytes d c) s)

/-- WIRE_SPEED28 (R105, R172). -/
def execWireSpeed28 (d c : Bool) (f : BitVec 4) (s : State) : Host.Outcome State Fault Refusal :=
  .next (emitCommand [speed28Byte d c f] s)

/-- WIRE_FN_GROUP0 (R106, R173). -/
def execWireFnGroup0 (f : BitVec 5) (s : State) : Host.Outcome State Fault Refusal :=
  .next (emitCommand [fnGroup0Byte f] s)

/-- WIRE_FN_GROUP1 (R106, R173). -/
def execWireFnGroup1 (f : BitVec 4) (s : State) : Host.Outcome State Fault Refusal :=
  .next (emitCommand [fnGroup1Byte f] s)

/-- WIRE_FN_GROUP2 (R106, R173). -/
def execWireFnGroup2 (f : BitVec 4) (s : State) : Host.Outcome State Fault Refusal :=
  .next (emitCommand [fnGroup2Byte f] s)

/-- WIRE_IDLE (R198): the two words are constants, the framer does not run. -/
def execWireIdle (s : State) : Host.Outcome State Fault Refusal := .next (emitPacket idleSeq s)

/-- WIRE_BROADCAST_ESTOP (R199): the two words are constants. -/
def execWireBroadcastEstop (s : State) : Host.Outcome State Fault Refusal := .next (emitPacket emergPkt s)

/-- WIRE_PACKET (R190, R193 to R195): the frame's words; for a length outside 2 to 5 the raise of
InvalidInstructionLengthError, which no encoding of the table leads to (log 12). -/
def execWirePacket (bytes : List Byte) (s : State) : Host.Outcome State Fault Refusal :=
  .next <|
    match framePacket bytes with
    | some ws => emitPacket ws s
    | none => recordFault .invalidLength s

end Sys2Proof.Machine
end

