-- ==== Sys2Proof/Machine/Dispatch.lean ====
section
/-! DEFINITION. What each instruction of the opcode table does: one arm per row. -/

namespace Sys2Proof.Machine

def exec (i : Instr) (s : State) : Host.Outcome State Fault Refusal :=
  match i with
  | .create addr long mode => Sys2Proof.Machine.execCreate addr long mode s
  | .drive h dir speed => Sys2Proof.Machine.execDrive h dir speed s
  | .setFn h fn on => Sys2Proof.Machine.execSetFn h fn on s
  | .getFn h fn => Sys2Proof.Machine.execGetFn h fn s
  | .beginCmd => Sys2Proof.Machine.execBegin s
  | .deinit => Sys2Proof.Machine.execDeinit s
  | .loop => Sys2Proof.Machine.execLoop s
  | .estop => Sys2Proof.Machine.execEstop s
  | .powerOn => Sys2Proof.Machine.execPowerOn s
  | .powerOff => Sys2Proof.Machine.execPowerOff s
  | .reservedOp0 any => Sys2Proof.Machine.execReservedOp0 any s
  | .reservedOpB any => Sys2Proof.Machine.execReservedOpB any s
  | .reservedOpC any => Sys2Proof.Machine.execReservedOpC any s
  | .reservedOpD any => Sys2Proof.Machine.execReservedOpD any s
  | .reservedOpE any => Sys2Proof.Machine.execReservedOpE any s
  | .reservedOpF any => Sys2Proof.Machine.execReservedOpF any s
  | .wireAddrShort a => Sys2Proof.Machine.execWireAddrShort a s
  | .wireAddrLong a => Sys2Proof.Machine.execWireAddrLong a s
  | .wireSpeed128 d c => Sys2Proof.Machine.execWireSpeed128 d c s
  | .wireSpeed28 d c f => Sys2Proof.Machine.execWireSpeed28 d c f s
  | .wireFnGroup0 f => Sys2Proof.Machine.execWireFnGroup0 f s
  | .wireFnGroup1 f => Sys2Proof.Machine.execWireFnGroup1 f s
  | .wireFnGroup2 f => Sys2Proof.Machine.execWireFnGroup2 f s
  | .wireIdle => Sys2Proof.Machine.execWireIdle s
  | .wireBroadcastEstop => Sys2Proof.Machine.execWireBroadcastEstop s
  | .wirePacket bytes => Sys2Proof.Machine.execWirePacket bytes s
  | .pop => Sys2Proof.Machine.execPop s

end Sys2Proof.Machine
end

