-- ==== Sys2Proof/Machine/Fetch.lean ====
section
/-! DEFINITION. What happens next at the interfaces: which input is taken, what reset does, and what a word that is no
instruction does (R67, R99, R226, R307, R340). -/

namespace Sys2Proof.Machine

/-- What the fetch finds: an instruction to run in a state, a state in which the step is over (an idle
step, a level of `rst`, a refused word), or a stop. -/
inductive Fetched where
  | run (i : Instr) (s : State)
  | settled (s : State)
  | stop (r : Refusal)
deriving DecidableEq, Repr

/-- The block's state under reset (R33, R340); what lies outside the block is not reset. -/
def State.blockReset (s : State) : State :=
  { State.resetWith s.cfg with env := s.env, obs := s.obs }

/-- The first input that is no command word, and the inputs without it: while the command port is not
ready, command words wait and the others go past them (R226, R340; log 8, log 9). -/
def takeOther : List Input → Option (Input × List Input)
  | [] => none
  | .cmd w :: rest =>
    match takeOther rest with
    | none => none
    | some (i, rest') => some (i, .cmd w :: rest')
  | i :: rest => some (i, rest)

/-- The inputs still to come. -/
def setInputs (l : List Input) (s : State) : State := { s with env := { s.env with inputs := l } }

/-- The level of `rst` changes; at 1 the block takes its reset values at once (R340). -/
def setRst (level : Bool) (s : State) : State :=
  if level then { s.blockReset with env := { s.env with rst := true } }
  else { s with env := { s.env with rst := false } }

/-- One input at a ready interface. A command word that is no command is refused with a response
(R99 (b), R307); bytes or words that are no pattern of the table are refused by name (log 13). -/
def runInput (i : Input) (s : State) : Fetched :=
  match i with
  | .rst level => .settled (setRst level s)
  | .cmd w =>
    match decode (.cmd w) with
    | .ok c => .run c s
    | .error _ => .settled (refuse s)
  | i =>
    match decode i with
    | .ok c => .run c s
    | .error _ => .stop .noWirePattern

/-- While `rst` is 1: the reset values stand, command words wait, a pop or an emission has no effect
(R340; log 9). -/
def fetchInReset (s : State) : Fetched :=
  match takeOther s.env.inputs with
  | none => .settled s.blockReset
  | some (.rst level, rest) => .settled (setRst level (setInputs rest s.blockReset))
  | some (_, rest) => .settled (setInputs rest s.blockReset)

/-- What happens next: under reset, nothing but reset; a held LOOP runs as soon as its hold has lifted,
and until then only the other interfaces move (R226); else the oldest input (R67). -/
def fetch (s : State) : Fetched :=
  if s.env.rst then fetchInReset s
  else if s.port.held then
    if s.holdCond then
      match takeOther s.env.inputs with
      | none => .settled s
      | some (i, rest) => runInput i (setInputs rest s)
    else .run .loop s
  else
    match s.env.inputs with
    | [] => .settled s
    | i :: rest => runInput i (setInputs rest s)

end Sys2Proof.Machine
end

