-- ==== Sys2Proof/Machine/Step.lean ====
section
/-! DEFINITION. One step of the machine, and where the host's table puts an instruction for the next step. -/

namespace Sys2Proof.Machine

/-- One step: what the fetch finds next is run. -/
def step (s : State) : Host.Outcome State Fault Refusal :=
  match fetch s with
  | .run i s1 => exec i s1
  | .settled s1 => .next s1
  | .stop r => .refused r

/-- `s` with the opcode-table row whose bits are `w` as the next thing that happens: first among the
inputs, with the command port ready (log 4, log 11). -/
def State.withFetchWord (s : State) (nbits w : Nat) : State :=
  { s with
    env := { s.env with rst := false, inputs := tableInput nbits w :: s.env.inputs }
    port := { s.port with held := false } }

end Sys2Proof.Machine
end

