-- ==== Sys2Proof/Safety.lean ====
section
/-! DEFINITION. The terms the claims use: the invariants of the state (10_state.md R36), what a bank holds, the
safe position of the lines, "no fault was raised" (R25, R344), and runs with the fairness of `pop` (R73). -/

namespace Sys2Proof

/-- The rows of the opcode table that are command words with an effect (R92). -/
def Instr.isCommand : Instr → Bool
  | .create _ _ _ | .drive _ _ _ | .setFn _ _ _ | .getFn _ _ | .beginCmd | .deinit | .loop | .estop
  | .powerOn | .powerOff => true
  | _ => false

end Sys2Proof

namespace Sys2Proof.Machine

/-- R36 (d) and (e) of a slot: the group bytes carry their prefixes, a short address fits 7 bits; and
`mode` is a legal value (R22). -/
abbrev Slot.wf (v : Slot) : Prop :=
  v.fg0 &&& 0xE0#8 = 0x80#8 ∧ v.fg1 &&& 0xF0#8 = 0xB0#8 ∧ v.fg2 &&& 0xF0#8 = 0xA0#8 ∧
    (v.long = false → v.addr.toNat ≤ 127) ∧ v.mode ≠ 3#2

/-- The registry: at most N_LOCO slots (R21), each well formed. -/
abbrev State.registryWf (s : State) : Prop := s.nLoco ≤ s.cfg.nLoco ∧ ∀ v ∈ s.slots, v.wf

/-- A bank holds a sequence: its length and its words (R28). -/
abbrev Bank.holds (b : Bank) (seq : List Word) : Prop :=
  b.len = seq.length ∧ ∀ i (h : i < seq.length), b.w.read i = some seq[i]

/-- A concatenation of whole packets (R36 (b)). -/
def wholePackets (seq : List Word) : Prop :=
  ∃ ps : List (List Byte), (∀ p ∈ ps, legalLength p.length) ∧ seq = ps.flatMap packetWords

/-- R36 (a) and (b) of a bank: 1 to BANK_WORDS words, whole packets. -/
def Bank.sound (c : Config) (b : Bank) : Prop :=
  1 ≤ b.len ∧ b.len ≤ c.bankWords ∧ ∃ seq, b.holds seq ∧ wholePackets seq

/-- R36 (a) to (c), and the canonical form of both banks' words (log 1). -/
def State.txWf (s : State) : Prop :=
  s.tx.bank0.w.wf ∧ s.tx.bank1.w.wf ∧ (s.tx.bank s.tx.active).sound s.cfg ∧
    s.tx.rd < (s.tx.bank s.tx.active).len ∧ (s.tx.pending → (s.tx.bank (!s.tx.active)).sound s.cfg)

/-- The invariants of R36. -/
def State.inv (s : State) : Prop := s.registryWf ∧ s.txWf

/-- The lines of PoweredOff (R322). -/
abbrev linesOff : Lines := { brake := true, pwmEn := false, pwrEn := false }

/-- The lines of PoweredOn (R270). -/
abbrev linesOn : Lines := { brake := false, pwmEn := true, pwrEn := true }

/-- The lines follow the power state (R322, R270), and an overcurrent is latched only while PoweredOn
(R312). -/
abbrev State.powerWf (s : State) : Prop :=
  s.lines = (if s.power then linesOn else linesOff) ∧ (s.ocLatch → s.power)

/-- The widths of `acc`, `peak` and `last_ma` (R31, R251): neither of the first two exceeds the largest code,
shifted, and the third lies in its signed width. -/
abbrev State.monitorWf (s : State) : Prop :=
  s.mon.acc ≤ s.mon.peak ∧ s.mon.peak ≤ (2 ^ s.cfg.adcBits - 1) * 2 ^ 16 ∧ s.cfg.maFits s.mon.lastMa

/-- While a LOOP is held, what it needs the hand-off for stays (R226). -/
abbrev State.heldWf (s : State) : Prop :=
  s.port.held → s.power ∧ s.ocLatch = false ∧ (s.estop || s.anyDirty)

/-- No fault was raised since reset (R344). -/
abbrev State.noFault (s : State) : Prop := s.fault = 0b0000#4

/-- An input at the command port. -/
def isCmdInput : Input → Bool
  | .cmd _ => true
  | _ => false

/-! ### Runs and the fairness of `pop` (R73) -/

/-- What the outside may add between two steps, behind what it has offered so far (log 4, log 5). -/
def offer (inputs : List Input) (adc : List (BitVec 16)) (time : List (BitVec 32)) (s : State) : State :=
  { s with
    env := { s.env with inputs := s.env.inputs ++ inputs, adc := s.env.adc ++ adc, time := s.env.time ++ time } }

/-- A run without end (R344): each state is what the step before it gave, and the outside may have offered
more. -/
def isRun (σ : Nat → State) : Prop :=
  ∀ n, ∃ t inputs adc time, step (σ n) = .next t ∧ σ (n + 1) = offer inputs adc time t

/-- `pop` is enabled in every state but under reset (R63, R340). -/
abbrev State.popEnabled (s : State) : Prop := s.env.rst = false

/-- The step from `s` is the consumer's `pop`. -/
def State.takesPop (s : State) : Prop := ∃ s1, fetch s = .run .pop s1

/-- Weak fairness of `pop` (R73): enabled from some state on for ever, it is taken again and again. -/
def fairPop (σ : Nat → State) : Prop :=
  ∀ n, (∀ m, n ≤ m → (σ m).popEnabled) → ∃ m, n ≤ m ∧ (σ m).takesPop

end Sys2Proof.Machine
end

