-- ==== Sys2Proof/Certificates/Slice0/Obligations.lean ====
section
/-! DEFINITION. The statements for the provers. Equations of the form `exec i s = .next { s with … }` are
complete: the fields they do not name are unchanged, every word of both banks among them. -/

open Sys2Proof Sys2Proof.Machine

/-! ### Terms of the statements -/

/-- What POWER_ON, BEGIN and a due LOOP write in the CurrentMonitor with the readings of `e` at time `t`
(R251 to R253). Where the milliamps do not fit the width of `last_ma`, what it holds is free (log 22). -/
def monitorAfter (c : Config) (e : Env) (t : BitVec 32) : Monitor where
  acc := (smoothAll (e.readings c.adcBits 200)).1
  peak := (smoothAll (e.readings c.adcBits 200)).2
  lastMa :=
    let ma := toMilliamps c (smoothAll (e.readings c.adcBits 200)).2
    if -(2 ^ (c.maBits - 1)) ≤ ma ∧ ma < 2 ^ (c.maBits - 1) then ma else (Config.unfitMa c.maBits ma).toInt
  lastCheckMs := t

/-- The periodic check of a LOOP in `s` is due (R277): the wrapped difference is at least 100. -/
def loopCheckDue (s : State) : Prop := 100 ≤ (s.env.timeNow - s.mon.lastCheckMs).toNat

/-- The milliamps that a check of POWER_ON, BEGIN or LOOP in `s` would give (R251 to R253). -/
def checkMa (s : State) : Int :=
  toMilliamps s.cfg (smoothAll (s.env.afterTime.readings s.cfg.adcBits 200)).2

/-- The state of a LOOP in `s` that has read the time and takes no sample. -/
def loopUnchecked (s : State) : State :=
  { s with port := { s.port with held := false }, env := s.env.afterTime }

/-- The state of a LOOP in `s` that has read the time and taken its sample. -/
def loopChecked (s : State) : State :=
  { s with
    port := { s.port with held := false }
    env := s.env.afterTime.afterReadings 200
    mon := monitorAfter s.cfg s.env.afterTime s.env.timeNow }

/-- `s1` is the state in which a LOOP of `s` reaches `tick` (R275, R276): the check was not due, or it was
due and passed. -/
def reachesTick (s s1 : State) : Prop :=
  (¬ loopCheckDue s ∧ s1 = loopUnchecked s) ∨
    (loopCheckDue s ∧ checkMa s ≤ 1000 ∧ s1 = loopChecked s)

/-- The response word: status in 3:0, 0 in 7:4, value in 15:8 (R97). -/
def response (status : BitVec 4) (value : BitVec 8) : BitVec 16 := value.setWidth 16 <<< 8 ||| status.setWidth 16

/-- The response of a command with this status and value, and nothing else (R97). The record `obs` is the model's
own (R344; log 19). -/
def answered (status : BitVec 4) (value : BitVec 8) (s : State) : State :=
  { s with
    port := { s.port with rspValid := true, rsp := response status value }
    obs := { s.obs with responses := s.obs.responses ++ [response status value] } }

/-- POWER_ON's and BEGIN's state before its check decides (R270): the three lines in their order, `power`,
one time reading, 200 ADC readings. -/
def poweredUp (s : State) : State :=
  { s with
    power := true
    lines := ⟨false, true, true⟩
    obs := { s.obs with
      lineTrace := s.obs.lineTrace ++
        [⟨s.lines.brake, true, s.lines.pwrEn⟩, ⟨false, true, s.lines.pwrEn⟩, ⟨false, true, true⟩] }
    env := s.env.afterTime.afterReadings 200
    mon := monitorAfter s.cfg s.env.afterTime s.env.timeNow }

/-- POWER_OFF's writes (R271): the three lines in their order, `estop`, `oc_latch`, `power`. -/
def poweredDown (s : State) : State :=
  { s with
    power := false
    estop := false
    ocLatch := false
    lines := ⟨true, false, false⟩
    obs := { s.obs with
      lineTrace := s.obs.lineTrace ++
        [⟨true, s.lines.pwmEn, s.lines.pwrEn⟩, ⟨true, false, s.lines.pwrEn⟩, ⟨true, false, false⟩] } }

/-- Every dirty flag cleared (R223). -/
def cleaned (s : State) : State :=
  { s with regDirty := false, slots := s.slots.map (fun v => { v with dirty := false }) }

/-- The transition of the transmit banks when `seq` is handed off (R225). -/
def handedOff (seq : List Word) (s : State) : State := { s with tx := s.tx.handoff seq }

/-- A slot has a speed coding (R172): its mode is 128 or 28 steps. -/
def codable (v : Slot) : Prop := v.mode = 0#2 ∨ v.mode = 1#2

/-- The speed Instruction of a slot with a speed coding (R172). -/
def speedBytes (v : Slot) : List Byte :=
  addressPrefix v ++
    (if v.mode = 0#2 then [0x3F#8, encode128 v.dir v.speed.toInt] else [encode28 v.dir v.speed.toInt])

/-- The four packets of a slot in the order speed, group 0, group 1, group 2 (R221). -/
def slotPackets (v : Slot) : List (List Byte) :=
  [speedBytes v, addressPrefix v ++ [v.fg0], addressPrefix v ++ [v.fg1], addressPrefix v ++ [v.fg2]]

/-- The table of R153: group, bit position and group prefix of each function. -/
def functionTable : List (Group × Nat × Byte) :=
  [(.g0, 4, 0x80#8), (.g0, 0, 0x80#8), (.g0, 1, 0x80#8), (.g0, 2, 0x80#8), (.g0, 3, 0x80#8),
   (.g1, 0, 0xB0#8), (.g1, 1, 0xB0#8), (.g1, 2, 0xB0#8), (.g1, 3, 0xB0#8),
   (.g2, 0, 0xA0#8), (.g2, 1, 0xA0#8), (.g2, 2, 0xA0#8), (.g2, 3, 0xA0#8)]

/-- The table of R133 for s = 0 to 28. -/
def speed28Table : List Byte :=
  [0x40#8, 0x42#8, 0x52#8, 0x43#8, 0x53#8, 0x44#8, 0x54#8, 0x45#8, 0x55#8, 0x46#8, 0x56#8, 0x47#8, 0x57#8,
   0x48#8, 0x58#8, 0x49#8, 0x59#8, 0x4A#8, 0x5A#8, 0x4B#8, 0x5B#8, 0x4C#8, 0x5C#8, 0x4D#8, 0x5D#8, 0x4E#8,
   0x5E#8, 0x4F#8, 0x5F#8]

/-- The address row of the opcode table for a slot (R103). -/
def addressRow (v : Slot) : Instr :=
  if v.long then .wireAddrLong v.addr else .wireAddrShort (v.addr.extractLsb' 0 7)

/-- The speed row of the opcode table for a slot, its fields cut from the coder's byte (R104, R105). -/
def speedRow (v : Slot) : Instr :=
  if v.mode = 0#2 then
    .wireSpeed128 ((encode128 v.dir v.speed.toInt).getLsbD 7) ((encode128 v.dir v.speed.toInt).extractLsb' 0 7)
  else
    .wireSpeed28 ((encode28 v.dir v.speed.toInt).getLsbD 5) ((encode28 v.dir v.speed.toInt).getLsbD 4)
      ((encode28 v.dir v.speed.toInt).extractLsb' 0 4)

/-- The function rows of the opcode table for a slot, in group order (R106). -/
def functionRows (v : Slot) : List Instr :=
  [.wireFnGroup0 (v.fg0.extractLsb' 0 5), .wireFnGroup1 (v.fg1.extractLsb' 0 4),
   .wireFnGroup2 (v.fg2.extractLsb' 0 4)]

/-- The rows by which the packet encoder emits one locomotive's four packets (R103 to R106, R193, R221). -/
def slotRows (v : Slot) : List Instr :=
  ((speedRow v :: functionRows v).zip (slotPackets v)).flatMap
    (fun r => [addressRow v, r.1, .wirePacket r.2])

/-- Instructions executed one after another. -/
def execAll : List Instr → State → Host.Outcome State Fault Refusal
  | [], s => .next s
  | i :: is, s =>
    match exec i s with
    | .next s1 => execAll is s1
    | .fault f => .fault f
    | .refused r => .refused r

/-- The words of both banks, of every index, are the same in `s` and `t`, and so are the banks' lengths,
`active`, `pending` and `rd`. -/
def sameTransmit (s t : State) : Prop :=
  s.tx.active = t.tx.active ∧ s.tx.pending = t.tx.pending ∧ s.tx.rd = t.tx.rd ∧
    ∀ b, (s.tx.bank b).len = (t.tx.bank b).len ∧ ∀ i, (s.tx.bank b).w.read i = (t.tx.bank b).w.read i

/-! ### Reset -/

/-- R33: every value of the reset table, whatever the parameters, with `tx_word` (R340) and the status outputs at
reset; and R27: the seven status outputs in every state. The model's own fields are not named. -/
def Obligations.ResetHasTheTableValues : Prop :=
  (∀ c, let s := State.resetWith c
    s.nLoco = 0 ∧ s.power = false ∧ s.estop = false ∧ s.regDirty = false ∧ s.ocLatch = false ∧
    s.fault = 0b0000#4 ∧ s.tx.active = false ∧ s.tx.pending = false ∧
    s.tx.bank0.len = 2 ∧ s.tx.bank0.w.read 0 = some 0xFFFFFFFF#32 ∧ s.tx.bank0.w.read 1 = some 0xF7F801FF#32 ∧
    (∀ i, 2 ≤ i → s.tx.bank0.w.read i = none) ∧ (∀ i, s.tx.bank1.w.read i = none) ∧ s.tx.bank1.len = 2 ∧
    s.tx.rd = 0 ∧ s.mon.acc = 0 ∧ s.mon.peak = 0 ∧ s.mon.lastMa = 0 ∧ s.mon.lastCheckMs = 0#32 ∧
    s.lines.brake = true ∧ s.lines.pwmEn = false ∧ s.lines.pwrEn = false ∧ s.port.rspValid = false ∧
    s.txWord = 0xFFFFFFFF#32 ∧ s.statusOutputs = ⟨false, false, false, false, 0b0000#4, 0#9, 0#16⟩) ∧
  ∀ s : State, let o := s.statusOutputs
    o.stPower = s.power ∧ o.stEstop = s.estop ∧ o.stPending = s.tx.pending ∧ o.stOc = s.ocLatch ∧
    o.stFault = s.fault ∧ o.stNloco.toNat = s.slots.length % 2 ^ 9 ∧
    (o.stMa.toNat : Int) = s.mon.lastMa % 2 ^ 16

/-- The invariants of R36, of the lines and the latch (R312, R322), of the monitor's widths (R31), of the
held LOOP (R226) and of the unreachable length fault (R304) hold after reset, for every valid
configuration; and no fault is recorded (R344). -/
def Obligations.ResetMeetsTheInvariants : Prop :=
  ∀ c : Config, c.valid → let s := State.resetWith c
    s.inv ∧ s.powerWf ∧ s.monitorWf ∧ s.heldWf ∧ s.fault.getLsbD 3 = false ∧ s.noFault

/-- R340: a rising `rst` gives the block its reset values at once, at the top of the inputs; what is
outside the block (parameters, environment, record) stays. A held LOOP is given up. That a level of `rst` is
an input taken between steps is the model's choice (log 9). -/
def Obligations.RstInputResetsTheBlock : Prop :=
  ∀ (s : State) rest, s.env.rst = false → (s.port.held = true → s.holdCond = true) →
    s.env.inputs = .rst true :: rest →
    step s = .next { State.resetWith s.cfg with
      env := { s.env with rst := true, inputs := rest }, obs := s.obs }

/-- R340: while `rst` is 1 every step leaves the reset values, no command is taken, no response is
produced, no word is popped and no draw is consumed, whatever is offered; `rst` returns to 0 exactly when the
oldest input that is no command word is its falling level. How the inputs wait or pass is the model's choice
(log 9). -/
def Obligations.UnderRstNothingIsTaken : Prop :=
  ∀ s : State, s.env.rst = true → ∃ t, step s = .next t ∧
    t = { State.resetWith s.cfg with env := t.env, obs := s.obs } ∧
    t.env.inputs.filter isCmdInput = s.env.inputs.filter isCmdInput ∧
    t.env.inputs.filter (!isCmdInput ·) = (s.env.inputs.filter (!isCmdInput ·)).tail ∧
    t.env.adc = s.env.adc ∧ t.env.adcFree = s.env.adcFree ∧
    t.env.time = s.env.time ∧ t.env.timeFree = s.env.timeFree ∧
    (t.env.rst = false ↔ (s.env.inputs.filter (!isCmdInput ·)).head? = some (.rst false))

/-! ### Encoding -/

/-- Decode and encode agree, for every well-formed instruction with every operand: no bit of an encoding
is dropped. For the packet frame this is the round trip of R200 (d). -/
def Obligations.DecodeOfEncodeIsTheInstruction : Prop :=
  ∀ i : Instr, i.wf → decode (encode i) = .ok i

/-- What the decoder accepts has one reading, and it is written back as it was read: no two things at an
interface are the same instruction. -/
def Obligations.EncodeOfDecodeIsTheInput : Prop :=
  ∀ (n : Input) (i : Instr), decode n = .ok i → i.wf ∧ encode i = n

/-- Words written out from R92 to R96 and 95_test_vectors.md 2.8, and byte patterns of R103 to R108. -/
def Obligations.SampleWordsDecode : Prop :=
  decode (.cmd 0x1000C4D2#32) = .ok (.create 1234#14 true 1#2) ∧
  decode (.cmd 0x2010011C#32) = .ok (.drive 1#8 true 28#8) ∧
  decode (.cmd 0x30100107#32) = .ok (.setFn 1#8 7#5 true) ∧
  decode (.cmd 0x40100007#32) = .ok (.getFn 1#8 7#5) ∧
  decode (.cmd 0x70000000#32) = .ok .loop ∧
  decode (.cmd 0x70000001#32) = .error .strayBits ∧
  decode (.cmd 0xB0000000#32) = .ok (.reservedOpB 0#28) ∧
  decode (.wire .address [0xC4#8, 0xD2#8]) = .ok (.wireAddrLong 1234#14) ∧
  decode (.wire .command [0x3F#8, 0xB4#8]) = .ok (.wireSpeed128 true 0x34#7) ∧
  decode (.wire .command [0x5F#8]) = .ok (.wireSpeed28 false true 0xF#4) ∧
  decode (.wire .whole [0xFF#8, 0x00#8]) = .ok .wireIdle ∧
  decode (.frame [0xFFFFFFE0#32, 0x31FAD111#32]) = .ok (.wirePacket [0x03#8, 0x3F#8, 0xB4#8]) ∧
  decode .pop = .ok .pop

/-! ### The step -/

/-- A step runs the decoded instruction: with `rst` 0 and no held LOOP, the oldest input, if it decodes, is
taken off the list and its meaning is the step. That the agents' inputs stand in one list is the model's choice
(log 4). -/
def Obligations.StepRunsTheDecodedInput : Prop :=
  ∀ (s : State) (n : Input) rest (i : Instr), s.env.rst = false → s.port.held = false →
    s.env.inputs = n :: rest → decode n = .ok i →
    step s = exec i { s with env := { s.env with inputs := rest } }

/-- R99 (b), R307: a command word that is no command is answered CmdRefused, with no other change. The word is
the oldest input (log 4). -/
def Obligations.StrayWordIsRefused : Prop :=
  ∀ (s : State) (w : Word) rest e, s.env.rst = false → s.port.held = false →
    s.env.inputs = .cmd w :: rest → decode (.cmd w) = .error e →
    step s = .next (answered 0xF#4 0#8 { s with env := { s.env with inputs := rest } })

/-- A held LOOP runs as the next step once its hold has lifted (R226); that it runs before any other input
is the model's choice (log 8). R73, R358: in a run with weak fairness of `pop` every held LOOP runs and is held
no more, or the platform resets the block; in a run in which the consumer has stopped and no reset comes it is
held for ever. That a run is a sequence of steps with inputs offered between them is the model's choice (log 4). -/
def Obligations.HeldLoopRunsWhenTheHoldLifts : Prop :=
  (∀ s : State, s.env.rst = false → s.port.held = true → s.holdCond = false → step s = exec .loop s) ∧
  (∀ (σ : Nat → State) (n : Nat), isRun σ → fairPop σ → (σ n).inv → (σ n).port.held = true →
    ∃ m, n ≤ m ∧ ((σ m).env.rst = true ∨ (fetch (σ m) = .run .loop (σ m) ∧ (σ (m + 1)).port.held = false))) ∧
  ∀ (σ : Nat → State) (n : Nat), isRun σ → (∀ m, n ≤ m → (σ m).env.rst = false ∧ ¬ (σ m).takesPop) →
    (σ n).port.held = true → (σ n).holdCond = true →
    ∀ m, n ≤ m → (σ m).port.held = true ∧ (σ m).holdCond = true

/-- R226: while a LOOP is held no other command is taken: a step answers nothing, leaves every command word
at the port, the registry, `power`, `estop`, the latch and the lines as they are, and the LOOP held,
unless the platform resets the block. That other inputs go past the waiting commands is the model's choice
(log 8). -/
def Obligations.HeldLoopTakesNoCommand : Prop :=
  ∀ (s t : State), s.env.rst = false → s.port.held = true → s.holdCond = true → step s = .next t →
    t.env.inputs.filter isCmdInput = s.env.inputs.filter isCmdInput ∧
    t.obs.responses = s.obs.responses ∧
    (t.env.rst = false → t.port.held = true ∧ t.slots = s.slots ∧ t.regDirty = s.regDirty ∧ t.power = s.power ∧
      t.estop = s.estop ∧ t.ocLatch = s.ocLatch ∧ t.lines = s.lines ∧ t.mon = s.mon ∧ t.fault = s.fault)

/-- R63, R226: a pop goes past the command words that wait behind a held LOOP: `pop` is enabled in every state
(how the inputs are ordered: log 8). -/
def Obligations.PopPassesWaitingCommands : Prop :=
  ∀ (s : State) (ws : List Word) rest, s.env.rst = false → s.port.held = true → s.holdCond = true →
    s.env.inputs = ws.map .cmd ++ .pop :: rest →
    step s = exec .pop { s with env := { s.env with inputs := ws.map .cmd ++ rest } }

/-! ### The registry commands -/

/-- R175: the record CREATE makes, its handle, and the three refusals. -/
def Obligations.CreateAppendsARecordOrRefuses : Prop :=
  ∀ (a : BitVec 14) (l : Bool) (m : BitVec 2) (s : State),
    (m ≠ 3#2 → (l = false → a.toNat ≤ 127) → s.nLoco ≠ s.cfg.nLoco →
      exec (.create a l m) s = .next (answered 0x0#4 (BitVec.ofNat 8 s.nLoco)
        { s with slots := s.slots ++
          [{ addr := a, long := l, mode := m, dir := false, speed := 0#8, fg0 := 0x80#8, fg1 := 0xB0#8,
             fg2 := 0xA0#8, dirty := true }] })) ∧
    (m = 3#2 ∨ (l = false ∧ 127 < a.toNat) ∨ s.nLoco = s.cfg.nLoco →
      exec (.create a l m) s = .next (answered 0xF#4 0#8 s))

/-- R176: DRIVE stores the pair as given and marks the slot dirty; a bad handle is refused. -/
def Obligations.DriveStoresThePairOrRefuses : Prop :=
  ∀ (h : BitVec 8) (d : Bool) (v : BitVec 8) (s : State),
    (∀ hh : h.toNat < s.nLoco,
      exec (.drive h d v) s = .next (answered 0x0#4 0#8
        { s with slots := s.slots.set h.toNat { s.slots[h.toNat] with dir := d, speed := v, dirty := true } })) ∧
    (s.nLoco ≤ h.toNat → exec (.drive h d v) s = .next (answered 0xF#4 0#8 s))

/-- R154: SET_FN sets or clears the function's bit of its group byte, ORs the group prefix in and marks the
slot dirty; an index above 12 changes nothing; a bad handle is refused, before the range check. -/
def Obligations.SetFnWritesTheGroupByteOrIgnoresOrRefuses : Prop :=
  ∀ (h : BitVec 8) (fn : BitVec 5) (on : Bool) (s : State),
    (∀ hh : h.toNat < s.nLoco, fn.toNat ≤ 12 →
      let v := s.slots[h.toNat]
      let g := groupIndex fn.toNat
      let m := 1#8 <<< bitShift fn.toNat
      let b := (if on then v.fg g ||| m else v.fg g &&& ~~~m) ||| groupPrefix fn.toNat
      exec (.setFn h fn on) s = .next (answered 0x0#4 0#8
        { s with slots := s.slots.set h.toNat { v.setFg g b with dirty := true } })) ∧
    (h.toNat < s.nLoco → 12 < fn.toNat → exec (.setFn h fn on) s = .next (answered 0x0#4 0#8 s)) ∧
    (s.nLoco ≤ h.toNat → exec (.setFn h fn on) s = .next (answered 0xF#4 0#8 s))

/-- R156: GET_FN answers the function's bit, 0 above index 12, and changes nothing. -/
def Obligations.GetFnAnswersTheBitOrRefuses : Prop :=
  ∀ (h : BitVec 8) (fn : BitVec 5) (s : State),
    (∀ hh : h.toNat < s.nLoco, fn.toNat ≤ 12 →
      exec (.getFn h fn) s = .next (answered 0x0#4
        (if (s.slots[h.toNat].fg (groupIndex fn.toNat)).getLsbD (bitShift fn.toNat) then 1#8 else 0#8) s)) ∧
    (h.toNat < s.nLoco → 12 < fn.toNat → exec (.getFn h fn) s = .next (answered 0x0#4 0#8 s)) ∧
    (s.nLoco ≤ h.toNat → exec (.getFn h fn) s = .next (answered 0xF#4 0#8 s))

/-- R150 to R153: the whole table of groups, bit positions and group prefixes. -/
def Obligations.FunctionCoderTable : Prop :=
  ∀ fn (h : fn < functionTable.length), (groupIndex fn, bitShift fn, groupPrefix fn) = functionTable[fn]

/-- R154 and R156 together: after SET_FN on a slot in use, GET_FN answers the bit that was set, and every
other function of that slot, and every function of every other slot, answers as before. -/
def Obligations.SetFnThenGetFn : Prop :=
  ∀ (h h' : BitVec 8) (fn fn' : BitVec 5) (on : Bool) (s t : State),
    h.toNat < s.nLoco → h'.toNat < s.nLoco → fn.toNat ≤ 12 → fn'.toNat ≤ 12 →
    exec (.setFn h fn on) s = .next t →
    ∃ u, exec (.getFn h' fn') t = .next u ∧
      (h' = h → fn' = fn → u.port.rsp = (if on then 0x0100#16 else 0x0000#16)) ∧
      (h' ≠ h ∨ fn' ≠ fn →
        ∃ w, exec (.getFn h' fn') s = .next w ∧ u.port.rsp = w.port.rsp)

/-! ### Power and emergency stop -/

/-- R270: POWER_ON's writes, then the check: OK at or below 1000 mA; above it the latch, the sticky bit and
the status of OvercurrentFault, the lines and `power` staying as just written. The record of the line writes is the
model's own (log 19), and `last_ma` is free where the milliamps do not fit it (log 22). -/
def Obligations.PowerOnEnergisesThenChecks : Prop :=
  ∀ s : State,
    (checkMa s ≤ 1000 → exec .powerOn s = .next (answered 0x0#4 0#8 (poweredUp s))) ∧
    (1000 < checkMa s →
      exec .powerOn s = .next (answered 0x1#4 0#8
        { poweredUp s with ocLatch := true, fault := s.fault ||| 0b0001#4 }))

/-- R272: BEGIN has exactly POWER_ON's transition, and it completes under the same condition. The record of the line
writes is the model's own (log 19), and `last_ma` is free where the milliamps do not fit it (log 22). -/
def Obligations.BeginIsPowerOn : Prop :=
  ∀ s : State, exec .beginCmd s = exec .powerOn s ∧
    (checkMa s ≤ 1000 → exec .beginCmd s = .next (answered 0x0#4 0#8 (poweredUp s)))

/-- R271: POWER_OFF. The record of the line writes is the model's own (log 19). -/
def Obligations.PowerOffDeenergises : Prop :=
  ∀ s : State, exec .powerOff s = .next (answered 0x0#4 0#8 (poweredDown s))

/-- R273: DEINIT is POWER_OFF and an emptied, dirty registry. The record of the line writes is the model's own
(log 19). -/
def Obligations.DeinitPowersOffAndEmptiesTheRegistry : Prop :=
  ∀ s : State, exec .deinit s = .next (answered 0x0#4 0#8 { poweredDown s with slots := [], regDirty := true })

/-- R274: ESTOP sets the one-shot flag and nothing else. -/
def Obligations.EstopSetsTheFlag : Prop :=
  ∀ s : State, exec .estop s = .next (answered 0x0#4 0#8 { s with estop := true })

/-! ### The control cycle -/

/-- R226: the LOOP that is held: it is accepted and nothing else happens. That its acceptance takes the last
response from the port is the model's choice (log 7). -/
def Obligations.LoopIsHeldWhileAHandoffIsPending : Prop :=
  ∀ s : State, s.power = true → s.ocLatch = false → s.tx.pending = true →
    (s.estop = true ∨ s.regDirty = true ∨ ∃ v ∈ s.slots, v.dirty = true) →
    exec .loop s = .next { s with port := { s.port with held := true, rspValid := false } }

/-- R226: in every other state the LOOP executes at once and is answered: if it goes on at all, it is no longer
held and there is one more response. -/
def Obligations.LoopIsHeldInNoOtherState : Prop :=
  ∀ s t : State, exec .loop s = .next t →
    (t.port.held = true ↔ s.power = true ∧ s.ocLatch = false ∧ s.tx.pending = true ∧
      (s.estop = true ∨ s.regDirty = true ∨ ∃ v ∈ s.slots, v.dirty = true)) ∧
    (t.port.held = false → t.obs.responses = s.obs.responses ++ [t.port.rsp])

/-- R302, R311: LOOP while PoweredOff: PowerOffViolation and nothing else; the time is read. -/
def Obligations.LoopPoweredOffFaults : Prop :=
  ∀ s : State, s.power = false →
    exec .loop s = .next (answered 0x2#4 0#8 { loopUnchecked s with fault := s.fault ||| 0b0010#4 })

/-- R301 (b), R311: LOOP with the latch set: OvercurrentFault again, no sample, nothing else. -/
def Obligations.LoopLatchedFaults : Prop :=
  ∀ s : State, s.power = true → s.ocLatch = true →
    exec .loop s = .next (answered 0x1#4 0#8 { loopUnchecked s with fault := s.fault ||| 0b0001#4 })

/-- R301 (a), R311: a due check above 1000 mA ends the LOOP before any hand-off and sets the latch. What `last_ma` holds
after a check whose milliamps do not fit it is free (log 22). -/
def Obligations.LoopFreshOvercurrentFaults : Prop :=
  ∀ s : State, s.power = true → s.ocLatch = false → s.holdCond = false → loopCheckDue s → 1000 < checkMa s →
    exec .loop s = .next (answered 0x1#4 0#8
      { loopChecked s with ocLatch := true, fault := s.fault ||| 0b0001#4 })

/-- R223: with `estop` the LOOP hands off the Emergency sequence and clears the flag, before anything else;
no dirty flag and no slot changes. What `last_ma` holds
after a check whose milliamps do not fit it is free (log 22). -/
def Obligations.LoopHandsOffTheEmergencySequence : Prop :=
  ∀ s s1 : State, s.power = true → s.ocLatch = false → s.tx.pending = false → s.estop = true → reachesTick s s1 →
    exec .loop s = .next (answered 0x0#4 0#8
      { handedOff [0xFFFFFFFF#32, 0xF0000403#32, 0xFFFFFFFF#32, 0xF0000403#32, 0xFFFFFFFF#32, 0xF0000403#32,
          0xFFFFFFFF#32, 0xF0000403#32, 0xFFFFFFFF#32, 0xF0000403#32] s1 with estop := false })

/-- R223, R221: without `estop`, with anything dirty and every slot codable, the LOOP hands off the Idle
sequence (empty registry) or the four packets of every slot in ascending order, and clears every dirty
flag. What `last_ma` holds
after a check whose milliamps do not fit it is free (log 22). -/
def Obligations.LoopRebuilds : Prop :=
  ∀ s s1 : State, s.power = true → s.ocLatch = false → s.tx.pending = false → s.estop = false →
    (s.regDirty = true ∨ ∃ v ∈ s.slots, v.dirty = true) → s.nLoco ≤ s.cfg.nLoco →
    (∀ v ∈ s.slots, codable v) → reachesTick s s1 →
    exec .loop s = .next (answered 0x0#4 0#8 (cleaned (handedOff
      (if s.slots = [] then [0xFFFFFFFF#32, 0xF7F801FF#32]
        else (s.slots.flatMap slotPackets).flatMap packetWords) s1)))

/-- R303, R228: with a 14-step slot the rebuild faults: the sticky bit and the status, no hand-off, every
dirty flag as it was. What `last_ma` holds
after a check whose milliamps do not fit it is free (log 22). -/
def Obligations.LoopUnsupportedModeFaults : Prop :=
  ∀ s s1 : State, s.power = true → s.ocLatch = false → s.tx.pending = false → s.estop = false →
    (s.regDirty = true ∨ ∃ v ∈ s.slots, v.dirty = true) → (∃ v ∈ s.slots, ¬ codable v) → reachesTick s s1 →
    exec .loop s = .next (answered 0x3#4 0#8 { s1 with fault := s.fault ||| 0b0100#4 })

/-- R223, R224: with nothing to hand off the LOOP does its check and nothing else, `pending` or not. What `last_ma` holds
after a check whose milliamps do not fit it is free (log 22). -/
def Obligations.LoopHandsOffNothing : Prop :=
  ∀ s s1 : State, s.power = true → s.ocLatch = false → s.estop = false → s.regDirty = false →
    (∀ v ∈ s.slots, v.dirty = false) → reachesTick s s1 →
    exec .loop s = .next (answered 0x0#4 0#8 s1)

/-- R225: the hand-off writes the shadow bank from index 0 up, its length and `pending`; its higher words, the
whole active bank, `active` and `rd` stay. That the shadow bank's words keep their canonical form is about the
model's own list of cells (log 1). -/
def Obligations.HandoffWritesTheShadowBank : Prop :=
  ∀ (t : TxBuffer) (seq : List Word), let u := t.handoff seq
    u.active = t.active ∧ u.rd = t.rd ∧ u.pending = true ∧ u.bank t.active = t.bank t.active ∧
    (u.bank (!t.active)).len = seq.length ∧
    (∀ i (h : i < seq.length), (u.bank (!t.active)).w.read i = some seq[i]) ∧
    (∀ i, seq.length ≤ i → (u.bank (!t.active)).w.read i = (t.bank (!t.active)).w.read i) ∧
    ((t.bank (!t.active)).w.wf → (u.bank (!t.active)).w.wf)

/-- R222, R303, R304: a rebuild gives 2 words for an empty registry and 8 for each slot otherwise, or it
raises UnsupportedModeError, exactly when some slot has no speed coding; it never raises the length
fault. -/
def Obligations.RebuildSizeOrUnsupportedMode : Prop :=
  ∀ s : State,
    ((∀ v ∈ s.slots, codable v) →
      ∃ seq, rebuild s = .ok seq ∧ seq.length = (if s.nLoco = 0 then 2 else 8 * s.nLoco)) ∧
    ((∃ v ∈ s.slots, ¬ codable v) → rebuild s = .error .unsupportedMode)

/-! ### The consumer -/

/-- R63: `tx_word` shows word `rd` of the active bank at all times; POP returns it and advances; at the last word
it returns to word 0 and, with a hand-off pending, switches the banks. -/
def Obligations.PopReturnsTheWordAndAdvances : Prop :=
  ∀ s : State,
    let s1 := { s with obs := { s.obs with popped := s.obs.popped ++ [s.txWord] } }
    (∀ v, (s.tx.bank s.tx.active).w.read s.tx.rd = some v → s.txWord = v) ∧
    (s.tx.rd + 1 ≠ (s.tx.bank s.tx.active).len →
      exec .pop s = .next { s1 with tx := { s.tx with rd := s.tx.rd + 1 } }) ∧
    (s.tx.rd + 1 = (s.tx.bank s.tx.active).len → s.tx.pending = false →
      exec .pop s = .next { s1 with tx := { s.tx with rd := 0 } }) ∧
    (s.tx.rd + 1 = (s.tx.bank s.tx.active).len → s.tx.pending = true →
      exec .pop s = .next { s1 with tx := { s.tx with rd := 0, active := !s.tx.active, pending := false } })

/-- R63, R68: as many pops as the active sequence has words, from its word 0, return exactly that sequence and
end at word 0; the banks are switched then if a hand-off was pending, never earlier. -/
def Obligations.PopsReturnTheWholeSequence : Prop :=
  ∀ (s : State) (seq : List Word), seq ≠ [] → (s.tx.bank s.tx.active).holds seq → s.tx.rd = 0 →
    execAll (List.replicate seq.length .pop) s = .next
      { s with
        obs := { s.obs with popped := s.obs.popped ++ seq }
        tx := { s.tx with active := (if s.tx.pending then !s.tx.active else s.tx.active), pending := false } }

/-! ### Reserved opcodes and wire patterns -/

/-- R99 (a), R307: each reserved opcode is refused, with no state change. -/
def Obligations.ReservedOpcodesAreRefused : Prop :=
  ∀ (any : BitVec 28) (s : State),
    exec (.reservedOp0 any) s = .next (answered 0xF#4 0#8 s) ∧
    exec (.reservedOpB any) s = .next (answered 0xF#4 0#8 s) ∧
    exec (.reservedOpC any) s = .next (answered 0xF#4 0#8 s) ∧
    exec (.reservedOpD any) s = .next (answered 0xF#4 0#8 s) ∧
    exec (.reservedOpE any) s = .next (answered 0xF#4 0#8 s) ∧
    exec (.reservedOpF any) s = .next (answered 0xF#4 0#8 s)

/-- R103 to R106: the bytes each wire pattern adds to the Instruction being emitted. That they go to a field of
the model's own, and that nothing else changes, is the model's choice (log 10). -/
def Obligations.WirePatternsEmitTheirBytes : Prop :=
  ∀ (s : State) (a7 : BitVec 7) (a : BitVec 14) (d c : Bool) (s7 : BitVec 7) (s4 : BitVec 4) (f5 : BitVec 5)
    (f4 : BitVec 4),
    exec (.wireAddrShort a7) s = .next { s with enc := { s.enc with instr := [0#1 ++ a7] } } ∧
    exec (.wireAddrLong a) s = .next { s with enc := { s.enc with
      instr := [0xC0#8 ||| (a >>> 8).setWidth 8, a.setWidth 8] } } ∧
    exec (.wireSpeed128 d s7) s = .next { s with enc := { s.enc with
      instr := s.enc.instr ++ [0x3F#8, (BitVec.ofBool d) ++ s7] } } ∧
    exec (.wireSpeed28 d c s4) s = .next { s with enc := { s.enc with
      instr := s.enc.instr ++ [0b01#2 ++ BitVec.ofBool d ++ BitVec.ofBool c ++ s4] } } ∧
    exec (.wireFnGroup0 f5) s = .next { s with enc := { s.enc with
      instr := s.enc.instr ++ [0b100#3 ++ f5] } } ∧
    exec (.wireFnGroup1 f4) s = .next { s with enc := { s.enc with
      instr := s.enc.instr ++ [0b1011#4 ++ f4] } } ∧
    exec (.wireFnGroup2 f4) s = .next { s with enc := { s.enc with
      instr := s.enc.instr ++ [0b1010#4 ++ f4] } }

/-- R190, R198, R199: the words each whole packet adds to the sequence being emitted; an Instruction of 0, 1
or more than 5 bytes is the sticky bit of InvalidInstructionLengthError and no words (log 10, log 12). -/
def Obligations.WirePacketsEmitTheirWords : Prop :=
  ∀ (s : State) (bytes : List Byte),
    exec .wireIdle s = .next { s with enc := { instr := [], seq := s.enc.seq ++ packetWords [0xFF#8, 0x00#8] } } ∧
    exec .wireBroadcastEstop s =
      .next { s with enc := { instr := [], seq := s.enc.seq ++ packetWords [0x00#8, 0x01#8] } } ∧
    (2 ≤ bytes.length → bytes.length ≤ 5 →
      exec (.wirePacket bytes) s =
        .next { s with enc := { instr := [], seq := s.enc.seq ++ packetWords bytes } }) ∧
    (bytes.length < 2 ∨ 5 < bytes.length →
      exec (.wirePacket bytes) s = .next { s with fault := s.fault ||| 0b1000#4 })

/-- Refinement of R221 by the rows of the table: emitting one well-formed, codable locomotive row by row gives
the words that a rebuild gives for it, and each frame is around the bytes its rows have just emitted. That
the rows are steps on fields of the model's own is the model's choice (log 10). -/
def Obligations.RowsOfALocomotiveEmitItsRebuild : Prop :=
  ∀ (v : Slot) (s : State), v.wf → codable v →
    execAll (slotRows v) s = .next { s with
      enc := { instr := [], seq := s.enc.seq ++ (slotPackets v).flatMap packetWords } } ∧
    slotWords v = .ok ((slotPackets v).flatMap packetWords) ∧
    ∀ r ∈ (speedRow v :: functionRows v).zip (slotPackets v),
      ∃ s1, execAll [addressRow v, r.1] s = .next s1 ∧ s1.enc.instr = r.2

/-! ### Coders, framer, current monitor -/

/-- R131, the whole range of the operand: bit 7 is the direction; the code is 1 below 0, 0 at 0, the even
number at or below `speed + 2` up to 125, and 126 above. -/
def Obligations.Encode128Codes : Prop :=
  ∀ (d : Bool) (n : Int), -128 ≤ n → n ≤ 127 →
    (encode128 d n).getLsbD 7 = d ∧
    ((encode128 d n).extractLsb' 0 7).toNat =
      if n < 0 then 1 else if n = 0 then 0 else if n < 126 then 2 * ((n.toNat + 2) / 2) else 126

/-- R133: the whole table, with its clamps; `direction` adds 0x20. -/
def Obligations.Encode28Table : Prop :=
  ∀ (d : Bool) (n : Int), -128 ≤ n → n ≤ 127 →
    encode28 d n = (if d then 0x20#8 else 0#8) +
      (speed28Table[(max 0 (min n 28)).toNat]?).getD 0#8

/-- R200, for every Instruction of 2 to 5 bytes: the XOR of all framed bytes is 0; the frame is a multiple of 32
bits; its ones before the first zero are the preamble, 14 to 45 of them; reading after them gives back
the bytes; and two Instructions with the same words are the same. -/
def Obligations.FrameInvariants : Prop :=
  ∀ bytes : List Byte, 2 ≤ bytes.length → bytes.length ≤ 5 →
    let all := bytes ++ [checksum bytes]
    let bits := frameBits all
    all.foldl (fun c b => c ^^^ b) 0#8 = 0#8 ∧
    bits.length % 32 = 0 ∧
    14 ≤ (bits.takeWhile id).length ∧ (bits.takeWhile id).length ≤ 45 ∧
    (bits.takeWhile id).length = 14 + padLen all.length ∧
    readFrameBytes (bits.dropWhile id) = some all ∧
    ∀ bytes' : List Byte, 2 ≤ bytes'.length → bytes'.length ≤ 5 → packetWords bytes' = packetWords bytes →
      bytes' = bytes

/-- R196: minimal length, padding, preamble, total and words for 2 to 5 bytes. -/
def Obligations.FrameSizes : Prop :=
  ∀ bytes : List Byte, 2 ≤ bytes.length → bytes.length ≤ 5 →
    let m := bytes.length + 1
    minLen m = 15 + 9 * m ∧ (frameBits (bytes ++ [checksum bytes])).length = minLen m + padLen m ∧
    padLen m = (if m = 3 then 22 else if m = 4 then 13 else if m = 5 then 4 else 27) ∧
    ((frameBits (bytes ++ [checksum bytes])).takeWhile id).length =
      (if m = 3 then 36 else if m = 4 then 27 else if m = 5 then 18 else 41) ∧
    minLen m + padLen m = (if m = 6 then 96 else 64) ∧
    (packetWords bytes).length = (if m = 6 then 3 else 2)

/-- R197: the layout of the packet's two words, for two, three and four bytes. -/
def Obligations.FrameWordLayout : Prop :=
  ∀ a b d e : Byte,
    packetWords [a, b] = [0xFFFFFFFF#32,
      0xF0000001#32 ||| (a.setWidth 32 <<< 19) ||| (b.setWidth 32 <<< 10) ||| ((a ^^^ b).setWidth 32 <<< 1)] ∧
    packetWords [a, b, d] = [0xFFFFFFE0#32 ||| (a >>> 4).setWidth 32,
      (a.setWidth 32 <<< 28) ||| (b.setWidth 32 <<< 19) ||| (d.setWidth 32 <<< 10) |||
        ((a ^^^ b ^^^ d).setWidth 32 <<< 1) ||| 1#32] ∧
    packetWords [a, b, d, e] = [0xFFFFC000#32 ||| (a.setWidth 32 <<< 5) ||| (b >>> 4).setWidth 32,
      (b.setWidth 32 <<< 28) ||| (d.setWidth 32 <<< 19) ||| (e.setWidth 32 <<< 10) |||
        ((a ^^^ b ^^^ d ^^^ e).setWidth 32 <<< 1) ||| 1#32]

/-- R251, R252 and R256: the smoothing update from 0, reading by reading; `toMilliamps` in a valid configuration, as
the nearest milliamp, halves up, less the bias; the smoothed peak is monotone in the readings, never above the
largest possible code, shifted, and so is the milliamp value in it. -/
def Obligations.SmoothedPeakIsMonotoneAndBounded : Prop :=
  smoothAll [] = (0, 0) ∧
  (∀ (raws : List Nat) (raw : Nat),
    (smoothAll (raws ++ [raw])).1 = (7 * (raw * 2 ^ 16) + 33 * (smoothAll raws).1) / 40 ∧
    (smoothAll (raws ++ [raw])).2 = max (smoothAll raws).2 (smoothAll (raws ++ [raw])).1) ∧
  (∀ (k : Config) (peak : Nat), k.valid →
    let scaled : Int := toMilliamps k peak + k.biasMa
    scaled * (k.gainDen * 2 ^ 16) ≤ peak * k.gainNum + k.gainDen * 2 ^ 15 ∧
    (peak * k.gainNum + k.gainDen * 2 ^ 15 : Int) < (scaled + 1) * (k.gainDen * 2 ^ 16)) ∧
  (∀ raws raws' : List Nat, List.Forall₂ (· ≤ ·) raws raws' →
    (smoothAll raws).2 ≤ (smoothAll raws').2 ∧
    ∀ c : Config, toMilliamps c (smoothAll raws).2 ≤ toMilliamps c (smoothAll raws').2) ∧
  (∀ (raws : List Nat) (top : Nat), (∀ r ∈ raws, r ≤ top) →
    (smoothAll raws).1 ≤ (smoothAll raws).2 ∧ (smoothAll raws).2 ≤ top * 2 ^ 16)

/-- R256: 200 equal readings of a code give a peak at most 6 below the code, shifted (in units of 2^-16); with GAIN
1/1 and BIAS 0 they convert to the code itself (90_conflicts.md C11); and 200 readings of 0 give minus the bias. -/
def Obligations.SteadyReadingsConvertToThemselves : Prop :=
  (∀ c : Nat, c < 2 ^ 16 →
    (smoothAll (List.replicate 200 c)).2 ≤ c * 2 ^ 16 ∧ c * 2 ^ 16 ≤ (smoothAll (List.replicate 200 c)).2 + 6) ∧
  (∀ (k : Config) (c : Nat), k.gainNum = 1 → k.gainDen = 1 → k.biasMa = 0 → c < 2 ^ 16 →
    toMilliamps k (smoothAll (List.replicate 200 c)).2 = c) ∧
  (∀ k : Config, k.valid → toMilliamps k (smoothAll (List.replicate 200 0)).2 = -(k.biasMa : Int))

/-! ### Invariants that every step keeps -/

/-- R36 (a) to (e), with the capacity of the registry, the legal modes and the canonical form of the banks'
words: kept by every step from every state that has them. -/
def Obligations.StepKeepsTheStateInvariants : Prop :=
  ∀ s t : State, s.inv → step s = .next t → t.inv

/-- From a state with the invariants of R36 no step is a fault (R344: the block has no halt state). The model's
one fault is its own (log 14). -/
def Obligations.NoStepFaultsFromTheInvariants : Prop :=
  ∀ s : State, s.inv → ∀ f, step s ≠ .fault f

/-- R322, R312: the lines follow the power state and the latch is set only while PoweredOn, kept by every
step. -/
def Obligations.StepKeepsLinesAndLatch : Prop :=
  ∀ s t : State, s.powerWf → step s = .next t → t.powerWf

/-- R31, R251: the accumulator and the peak stay within ADC_BITS + 16 bits and `last_ma` within its signed width, kept
by every step. -/
def Obligations.StepKeepsTheMonitorWidths : Prop :=
  ∀ s t : State, s.monitorWf → step s = .next t → t.monitorWf

/-- R226: while a LOOP is held, what it is held for stays, kept by every step. -/
def Obligations.StepKeepsTheHeldLoopsReason : Prop :=
  ∀ s t : State, s.heldWf → step s = .next t → t.heldWf

/-- R304: the length fault is never recorded by a step. -/
def Obligations.StepNeverRecordsTheLengthFault : Prop :=
  ∀ s t : State, s.fault.getLsbD 3 = false → step s = .next t → t.fault.getLsbD 3 = false

/-! ### Whole-machine rules -/

/-- R34: no instruction but POWER_ON, BEGIN, POWER_OFF and DEINIT writes a line. -/
def Obligations.OnlyPowerCommandsWriteTheLines : Prop :=
  ∀ (i : Instr) (s t : State), i ≠ .powerOn → i ≠ .beginCmd → i ≠ .powerOff → i ≠ .deinit →
    exec i s = .next t → t.lines = s.lines ∧ t.obs.lineTrace = s.obs.lineTrace

/-- R25: no instruction clears a sticky fault bit; R26: no instruction changes a parameter. -/
def Obligations.FaultBitsAreStickyAndParametersFixed : Prop :=
  ∀ (i : Instr) (s t : State), exec i s = .next t → s.fault &&& t.fault = s.fault ∧ t.cfg = s.cfg

/-- R67 (c), (d): only LOOP and POP change anything of the transmit banks; a LOOP leaves the bank the
consumer reads, `active` and `rd` as they are. -/
def Obligations.CommandsDoNotDisturbTheConsumer : Prop :=
  ∀ (i : Instr) (s t : State), exec i s = .next t → i ≠ .pop →
    (i ≠ .loop → sameTransmit s t) ∧
    t.tx.active = s.tx.active ∧ t.tx.rd = s.tx.rd ∧ t.tx.bank t.tx.active = s.tx.bank s.tx.active

/-- R314: once an overcurrent is latched, no instruction but POWER_OFF and DEINIT clears the latch, and
no instruction hands anything off. -/
def Obligations.LatchBlocksHandoffsUntilPowerOff : Prop :=
  ∀ (i : Instr) (s t : State), s.power = true → s.ocLatch = true → exec i s = .next t →
    (i ≠ .powerOff → i ≠ .deinit → t.ocLatch = true) ∧ (i ≠ .pop → sameTransmit s t)

/-- R97, R305: every command that is not held is answered once, with one of the statuses its row of R305
has. -/
def Obligations.CommandsAnswerTheirStatuses : Prop :=
  ∀ (i : Instr) (s t : State), i.isCommand → exec i s = .next t → t.port.held = false →
    t.obs.responses = s.obs.responses ++ [t.port.rsp] ∧ t.port.rspValid = true ∧
    t.port.rsp.extractLsb' 4 4 = 0#4 ∧
    (match i with
      | .create _ _ _ | .drive _ _ _ | .setFn _ _ _ | .getFn _ _ =>
        t.port.rsp.extractLsb' 0 4 = 0x0#4 ∨ t.port.rsp.extractLsb' 0 4 = 0xF#4
      | .beginCmd | .powerOn => t.port.rsp.extractLsb' 0 4 = 0x0#4 ∨ t.port.rsp.extractLsb' 0 4 = 0x1#4
      | .loop =>
        t.port.rsp.extractLsb' 0 4 = 0x0#4 ∨ t.port.rsp.extractLsb' 0 4 = 0x1#4 ∨
          t.port.rsp.extractLsb' 0 4 = 0x2#4 ∨ t.port.rsp.extractLsb' 0 4 = 0x3#4
      | _ => t.port.rsp.extractLsb' 0 4 = 0x0#4)

/-- R277: a LOOP takes a sample only when at least 100 ms have passed on the wrapped time; otherwise the
monitor, the latch and the ADC readings to come stay. -/
def Obligations.LoopSamplesOnlyWhenDue : Prop :=
  ∀ s t : State, ¬ loopCheckDue s → exec .loop s = .next t →
    t.mon = s.mon ∧ t.ocLatch = s.ocLatch ∧ t.env.adc = s.env.adc ∧ t.env.adcFree = s.env.adcFree

/-- R223, R228, R311: an ESTOP or a dirty flag is used up only by a hand-off: after a LOOP that hands
nothing off, `estop`, `reg_dirty` and every slot are as they were. -/
def Obligations.LoopConsumesFlagsOnlyByAHandoff : Prop :=
  ∀ s t : State, s.tx.pending = false → exec .loop s = .next t → t.tx.pending = false →
    t.estop = s.estop ∧ t.regDirty = s.regDirty ∧ t.slots = s.slots ∧ sameTransmit s t
end

