-- ==== Sys2Proof/Laws/State.lean ====
section
/-! SUPPORT. One lemma per field per update of State, each true by unfolding once. -/

namespace Sys2Proof.Machine

/-! ### `respond` -/

@[simp] theorem respond_cfg (st : BitVec 4) (v : BitVec 8) (s : State) :
    (respond st v s).cfg = s.cfg := rfl
@[simp] theorem respond_slots (st : BitVec 4) (v : BitVec 8) (s : State) :
    (respond st v s).slots = s.slots := rfl
@[simp] theorem respond_regDirty (st : BitVec 4) (v : BitVec 8) (s : State) :
    (respond st v s).regDirty = s.regDirty := rfl
@[simp] theorem respond_power (st : BitVec 4) (v : BitVec 8) (s : State) :
    (respond st v s).power = s.power := rfl
@[simp] theorem respond_estop (st : BitVec 4) (v : BitVec 8) (s : State) :
    (respond st v s).estop = s.estop := rfl
@[simp] theorem respond_ocLatch (st : BitVec 4) (v : BitVec 8) (s : State) :
    (respond st v s).ocLatch = s.ocLatch := rfl
@[simp] theorem respond_fault (st : BitVec 4) (v : BitVec 8) (s : State) :
    (respond st v s).fault = s.fault := rfl
@[simp] theorem respond_tx (st : BitVec 4) (v : BitVec 8) (s : State) :
    (respond st v s).tx = s.tx := rfl
@[simp] theorem respond_mon (st : BitVec 4) (v : BitVec 8) (s : State) :
    (respond st v s).mon = s.mon := rfl
@[simp] theorem respond_lines (st : BitVec 4) (v : BitVec 8) (s : State) :
    (respond st v s).lines = s.lines := rfl
@[simp] theorem respond_port (st : BitVec 4) (v : BitVec 8) (s : State) :
    (respond st v s).port = { s.port with rspValid := true, rsp := rspWord st v } := rfl
@[simp] theorem respond_env (st : BitVec 4) (v : BitVec 8) (s : State) :
    (respond st v s).env = s.env := rfl
@[simp] theorem respond_obs (st : BitVec 4) (v : BitVec 8) (s : State) :
    (respond st v s).obs = { s.obs with responses := s.obs.responses ++ [rspWord st v] } := rfl
@[simp] theorem respond_enc (st : BitVec 4) (v : BitVec 8) (s : State) :
    (respond st v s).enc = s.enc := rfl
@[simp] theorem respond_nLoco (st : BitVec 4) (v : BitVec 8) (s : State) : (respond st v s).nLoco = s.nLoco := rfl
@[simp] theorem respond_anyDirty (st : BitVec 4) (v : BitVec 8) (s : State) : (respond st v s).anyDirty = s.anyDirty := rfl

/-! ### `ok` -/

@[simp] theorem ok_cfg (s : State) :
    (ok s).cfg = s.cfg := rfl
@[simp] theorem ok_slots (s : State) :
    (ok s).slots = s.slots := rfl
@[simp] theorem ok_regDirty (s : State) :
    (ok s).regDirty = s.regDirty := rfl
@[simp] theorem ok_power (s : State) :
    (ok s).power = s.power := rfl
@[simp] theorem ok_estop (s : State) :
    (ok s).estop = s.estop := rfl
@[simp] theorem ok_ocLatch (s : State) :
    (ok s).ocLatch = s.ocLatch := rfl
@[simp] theorem ok_fault (s : State) :
    (ok s).fault = s.fault := rfl
@[simp] theorem ok_tx (s : State) :
    (ok s).tx = s.tx := rfl
@[simp] theorem ok_mon (s : State) :
    (ok s).mon = s.mon := rfl
@[simp] theorem ok_lines (s : State) :
    (ok s).lines = s.lines := rfl
@[simp] theorem ok_port (s : State) :
    (ok s).port = { s.port with rspValid := true, rsp := rspWord statusOk 0#8 } := rfl
@[simp] theorem ok_env (s : State) :
    (ok s).env = s.env := rfl
@[simp] theorem ok_obs (s : State) :
    (ok s).obs = { s.obs with responses := s.obs.responses ++ [rspWord statusOk 0#8] } := rfl
@[simp] theorem ok_enc (s : State) :
    (ok s).enc = s.enc := rfl
@[simp] theorem ok_nLoco (s : State) : (ok s).nLoco = s.nLoco := rfl
@[simp] theorem ok_anyDirty (s : State) : (ok s).anyDirty = s.anyDirty := rfl

/-! ### `refuse` -/

@[simp] theorem refuse_cfg (s : State) :
    (refuse s).cfg = s.cfg := rfl
@[simp] theorem refuse_slots (s : State) :
    (refuse s).slots = s.slots := rfl
@[simp] theorem refuse_regDirty (s : State) :
    (refuse s).regDirty = s.regDirty := rfl
@[simp] theorem refuse_power (s : State) :
    (refuse s).power = s.power := rfl
@[simp] theorem refuse_estop (s : State) :
    (refuse s).estop = s.estop := rfl
@[simp] theorem refuse_ocLatch (s : State) :
    (refuse s).ocLatch = s.ocLatch := rfl
@[simp] theorem refuse_fault (s : State) :
    (refuse s).fault = s.fault := rfl
@[simp] theorem refuse_tx (s : State) :
    (refuse s).tx = s.tx := rfl
@[simp] theorem refuse_mon (s : State) :
    (refuse s).mon = s.mon := rfl
@[simp] theorem refuse_lines (s : State) :
    (refuse s).lines = s.lines := rfl
@[simp] theorem refuse_port (s : State) :
    (refuse s).port = { s.port with rspValid := true, rsp := rspWord statusRefused 0#8 } := rfl
@[simp] theorem refuse_env (s : State) :
    (refuse s).env = s.env := rfl
@[simp] theorem refuse_obs (s : State) :
    (refuse s).obs = { s.obs with responses := s.obs.responses ++ [rspWord statusRefused 0#8] } := rfl
@[simp] theorem refuse_enc (s : State) :
    (refuse s).enc = s.enc := rfl
@[simp] theorem refuse_nLoco (s : State) : (refuse s).nLoco = s.nLoco := rfl
@[simp] theorem refuse_anyDirty (s : State) : (refuse s).anyDirty = s.anyDirty := rfl

/-! ### `recordFault` -/

@[simp] theorem recordFault_cfg (k : FaultKind) (s : State) :
    (recordFault k s).cfg = s.cfg := rfl
@[simp] theorem recordFault_slots (k : FaultKind) (s : State) :
    (recordFault k s).slots = s.slots := rfl
@[simp] theorem recordFault_regDirty (k : FaultKind) (s : State) :
    (recordFault k s).regDirty = s.regDirty := rfl
@[simp] theorem recordFault_power (k : FaultKind) (s : State) :
    (recordFault k s).power = s.power := rfl
@[simp] theorem recordFault_estop (k : FaultKind) (s : State) :
    (recordFault k s).estop = s.estop := rfl
@[simp] theorem recordFault_ocLatch (k : FaultKind) (s : State) :
    (recordFault k s).ocLatch = s.ocLatch := rfl
@[simp] theorem recordFault_fault (k : FaultKind) (s : State) :
    (recordFault k s).fault = s.fault ||| k.bit := rfl
@[simp] theorem recordFault_tx (k : FaultKind) (s : State) :
    (recordFault k s).tx = s.tx := rfl
@[simp] theorem recordFault_mon (k : FaultKind) (s : State) :
    (recordFault k s).mon = s.mon := rfl
@[simp] theorem recordFault_lines (k : FaultKind) (s : State) :
    (recordFault k s).lines = s.lines := rfl
@[simp] theorem recordFault_port (k : FaultKind) (s : State) :
    (recordFault k s).port = s.port := rfl
@[simp] theorem recordFault_env (k : FaultKind) (s : State) :
    (recordFault k s).env = s.env := rfl
@[simp] theorem recordFault_obs (k : FaultKind) (s : State) :
    (recordFault k s).obs = s.obs := rfl
@[simp] theorem recordFault_enc (k : FaultKind) (s : State) :
    (recordFault k s).enc = s.enc := rfl
@[simp] theorem recordFault_nLoco (k : FaultKind) (s : State) : (recordFault k s).nLoco = s.nLoco := rfl
@[simp] theorem recordFault_anyDirty (k : FaultKind) (s : State) : (recordFault k s).anyDirty = s.anyDirty := rfl

/-! ### `raise` -/

@[simp] theorem raise_cfg (k : FaultKind) (s : State) :
    (raise k s).cfg = s.cfg := rfl
@[simp] theorem raise_slots (k : FaultKind) (s : State) :
    (raise k s).slots = s.slots := rfl
@[simp] theorem raise_regDirty (k : FaultKind) (s : State) :
    (raise k s).regDirty = s.regDirty := rfl
@[simp] theorem raise_power (k : FaultKind) (s : State) :
    (raise k s).power = s.power := rfl
@[simp] theorem raise_estop (k : FaultKind) (s : State) :
    (raise k s).estop = s.estop := rfl
@[simp] theorem raise_ocLatch (k : FaultKind) (s : State) :
    (raise k s).ocLatch = s.ocLatch := rfl
@[simp] theorem raise_fault (k : FaultKind) (s : State) :
    (raise k s).fault = s.fault ||| k.bit := rfl
@[simp] theorem raise_tx (k : FaultKind) (s : State) :
    (raise k s).tx = s.tx := rfl
@[simp] theorem raise_mon (k : FaultKind) (s : State) :
    (raise k s).mon = s.mon := rfl
@[simp] theorem raise_lines (k : FaultKind) (s : State) :
    (raise k s).lines = s.lines := rfl
@[simp] theorem raise_port (k : FaultKind) (s : State) :
    (raise k s).port = { s.port with rspValid := true, rsp := rspWord k.status 0#8 } := rfl
@[simp] theorem raise_env (k : FaultKind) (s : State) :
    (raise k s).env = s.env := rfl
@[simp] theorem raise_obs (k : FaultKind) (s : State) :
    (raise k s).obs = { s.obs with responses := s.obs.responses ++ [rspWord k.status 0#8] } := rfl
@[simp] theorem raise_enc (k : FaultKind) (s : State) :
    (raise k s).enc = s.enc := rfl
@[simp] theorem raise_nLoco (k : FaultKind) (s : State) : (raise k s).nLoco = s.nLoco := rfl
@[simp] theorem raise_anyDirty (k : FaultKind) (s : State) : (raise k s).anyDirty = s.anyDirty := rfl

/-! ### `takeTime` -/

@[simp] theorem takeTime_cfg (s : State) :
    (takeTime s).cfg = s.cfg := rfl
@[simp] theorem takeTime_slots (s : State) :
    (takeTime s).slots = s.slots := rfl
@[simp] theorem takeTime_regDirty (s : State) :
    (takeTime s).regDirty = s.regDirty := rfl
@[simp] theorem takeTime_power (s : State) :
    (takeTime s).power = s.power := rfl
@[simp] theorem takeTime_estop (s : State) :
    (takeTime s).estop = s.estop := rfl
@[simp] theorem takeTime_ocLatch (s : State) :
    (takeTime s).ocLatch = s.ocLatch := rfl
@[simp] theorem takeTime_fault (s : State) :
    (takeTime s).fault = s.fault := rfl
@[simp] theorem takeTime_tx (s : State) :
    (takeTime s).tx = s.tx := rfl
@[simp] theorem takeTime_mon (s : State) :
    (takeTime s).mon = s.mon := rfl
@[simp] theorem takeTime_lines (s : State) :
    (takeTime s).lines = s.lines := rfl
@[simp] theorem takeTime_port (s : State) :
    (takeTime s).port = s.port := rfl
@[simp] theorem takeTime_env (s : State) :
    (takeTime s).env = s.env.afterTime := rfl
@[simp] theorem takeTime_obs (s : State) :
    (takeTime s).obs = s.obs := rfl
@[simp] theorem takeTime_enc (s : State) :
    (takeTime s).enc = s.enc := rfl
@[simp] theorem takeTime_nLoco (s : State) : (takeTime s).nLoco = s.nLoco := rfl
@[simp] theorem takeTime_anyDirty (s : State) : (takeTime s).anyDirty = s.anyDirty := rfl

/-! ### `setSlot` -/

@[simp] theorem setSlot_cfg (h : BitVec 8) (v : Slot) (s : State) :
    (setSlot h v s).cfg = s.cfg := rfl
@[simp] theorem setSlot_slots (h : BitVec 8) (v : Slot) (s : State) :
    (setSlot h v s).slots = s.slots.set h.toNat v := rfl
@[simp] theorem setSlot_regDirty (h : BitVec 8) (v : Slot) (s : State) :
    (setSlot h v s).regDirty = s.regDirty := rfl
@[simp] theorem setSlot_power (h : BitVec 8) (v : Slot) (s : State) :
    (setSlot h v s).power = s.power := rfl
@[simp] theorem setSlot_estop (h : BitVec 8) (v : Slot) (s : State) :
    (setSlot h v s).estop = s.estop := rfl
@[simp] theorem setSlot_ocLatch (h : BitVec 8) (v : Slot) (s : State) :
    (setSlot h v s).ocLatch = s.ocLatch := rfl
@[simp] theorem setSlot_fault (h : BitVec 8) (v : Slot) (s : State) :
    (setSlot h v s).fault = s.fault := rfl
@[simp] theorem setSlot_tx (h : BitVec 8) (v : Slot) (s : State) :
    (setSlot h v s).tx = s.tx := rfl
@[simp] theorem setSlot_mon (h : BitVec 8) (v : Slot) (s : State) :
    (setSlot h v s).mon = s.mon := rfl
@[simp] theorem setSlot_lines (h : BitVec 8) (v : Slot) (s : State) :
    (setSlot h v s).lines = s.lines := rfl
@[simp] theorem setSlot_port (h : BitVec 8) (v : Slot) (s : State) :
    (setSlot h v s).port = s.port := rfl
@[simp] theorem setSlot_env (h : BitVec 8) (v : Slot) (s : State) :
    (setSlot h v s).env = s.env := rfl
@[simp] theorem setSlot_obs (h : BitVec 8) (v : Slot) (s : State) :
    (setSlot h v s).obs = s.obs := rfl
@[simp] theorem setSlot_enc (h : BitVec 8) (v : Slot) (s : State) :
    (setSlot h v s).enc = s.enc := rfl

/-! ### `clearDirty` -/

@[simp] theorem clearDirty_cfg (s : State) :
    (clearDirty s).cfg = s.cfg := rfl
@[simp] theorem clearDirty_slots (s : State) :
    (clearDirty s).slots = s.slots.map (fun v => { v with dirty := false }) := rfl
@[simp] theorem clearDirty_regDirty (s : State) :
    (clearDirty s).regDirty = false := rfl
@[simp] theorem clearDirty_power (s : State) :
    (clearDirty s).power = s.power := rfl
@[simp] theorem clearDirty_estop (s : State) :
    (clearDirty s).estop = s.estop := rfl
@[simp] theorem clearDirty_ocLatch (s : State) :
    (clearDirty s).ocLatch = s.ocLatch := rfl
@[simp] theorem clearDirty_fault (s : State) :
    (clearDirty s).fault = s.fault := rfl
@[simp] theorem clearDirty_tx (s : State) :
    (clearDirty s).tx = s.tx := rfl
@[simp] theorem clearDirty_mon (s : State) :
    (clearDirty s).mon = s.mon := rfl
@[simp] theorem clearDirty_lines (s : State) :
    (clearDirty s).lines = s.lines := rfl
@[simp] theorem clearDirty_port (s : State) :
    (clearDirty s).port = s.port := rfl
@[simp] theorem clearDirty_env (s : State) :
    (clearDirty s).env = s.env := rfl
@[simp] theorem clearDirty_obs (s : State) :
    (clearDirty s).obs = s.obs := rfl
@[simp] theorem clearDirty_enc (s : State) :
    (clearDirty s).enc = s.enc := rfl

/-! ### `setLines` -/

@[simp] theorem setLines_cfg (l : Lines) (s : State) :
    (setLines l s).cfg = s.cfg := rfl
@[simp] theorem setLines_slots (l : Lines) (s : State) :
    (setLines l s).slots = s.slots := rfl
@[simp] theorem setLines_regDirty (l : Lines) (s : State) :
    (setLines l s).regDirty = s.regDirty := rfl
@[simp] theorem setLines_power (l : Lines) (s : State) :
    (setLines l s).power = s.power := rfl
@[simp] theorem setLines_estop (l : Lines) (s : State) :
    (setLines l s).estop = s.estop := rfl
@[simp] theorem setLines_ocLatch (l : Lines) (s : State) :
    (setLines l s).ocLatch = s.ocLatch := rfl
@[simp] theorem setLines_fault (l : Lines) (s : State) :
    (setLines l s).fault = s.fault := rfl
@[simp] theorem setLines_tx (l : Lines) (s : State) :
    (setLines l s).tx = s.tx := rfl
@[simp] theorem setLines_mon (l : Lines) (s : State) :
    (setLines l s).mon = s.mon := rfl
@[simp] theorem setLines_lines (l : Lines) (s : State) :
    (setLines l s).lines = l := rfl
@[simp] theorem setLines_port (l : Lines) (s : State) :
    (setLines l s).port = s.port := rfl
@[simp] theorem setLines_env (l : Lines) (s : State) :
    (setLines l s).env = s.env := rfl
@[simp] theorem setLines_obs (l : Lines) (s : State) :
    (setLines l s).obs = { s.obs with lineTrace := s.obs.lineTrace ++ [l] } := rfl
@[simp] theorem setLines_enc (l : Lines) (s : State) :
    (setLines l s).enc = s.enc := rfl
@[simp] theorem setLines_nLoco (l : Lines) (s : State) : (setLines l s).nLoco = s.nLoco := rfl
@[simp] theorem setLines_anyDirty (l : Lines) (s : State) : (setLines l s).anyDirty = s.anyDirty := rfl

/-! ### `sample` -/

@[simp] theorem sample_cfg (s : State) :
    (sample s).cfg = s.cfg := rfl
@[simp] theorem sample_slots (s : State) :
    (sample s).slots = s.slots := rfl
@[simp] theorem sample_regDirty (s : State) :
    (sample s).regDirty = s.regDirty := rfl
@[simp] theorem sample_power (s : State) :
    (sample s).power = s.power := rfl
@[simp] theorem sample_estop (s : State) :
    (sample s).estop = s.estop := rfl
@[simp] theorem sample_ocLatch (s : State) :
    (sample s).ocLatch = s.ocLatch := rfl
@[simp] theorem sample_fault (s : State) :
    (sample s).fault = s.fault := rfl
@[simp] theorem sample_tx (s : State) :
    (sample s).tx = s.tx := rfl
@[simp] theorem sample_mon (s : State) :
    (sample s).mon = { s.mon with acc := (smoothAll s.sampleReadings).1, peak := (smoothAll s.sampleReadings).2, lastMa := lastMaOf s.cfg s.sampleMa } := rfl
@[simp] theorem sample_lines (s : State) :
    (sample s).lines = s.lines := rfl
@[simp] theorem sample_port (s : State) :
    (sample s).port = s.port := rfl
@[simp] theorem sample_env (s : State) :
    (sample s).env = s.env.afterReadings nSamples := rfl
@[simp] theorem sample_obs (s : State) :
    (sample s).obs = s.obs := rfl
@[simp] theorem sample_enc (s : State) :
    (sample s).enc = s.enc := rfl
@[simp] theorem sample_nLoco (s : State) : (sample s).nLoco = s.nLoco := rfl
@[simp] theorem sample_anyDirty (s : State) : (sample s).anyDirty = s.anyDirty := rfl

/-! ### `setLastCheck` -/

@[simp] theorem setLastCheck_cfg (t : BitVec 32) (s : State) :
    (setLastCheck t s).cfg = s.cfg := rfl
@[simp] theorem setLastCheck_slots (t : BitVec 32) (s : State) :
    (setLastCheck t s).slots = s.slots := rfl
@[simp] theorem setLastCheck_regDirty (t : BitVec 32) (s : State) :
    (setLastCheck t s).regDirty = s.regDirty := rfl
@[simp] theorem setLastCheck_power (t : BitVec 32) (s : State) :
    (setLastCheck t s).power = s.power := rfl
@[simp] theorem setLastCheck_estop (t : BitVec 32) (s : State) :
    (setLastCheck t s).estop = s.estop := rfl
@[simp] theorem setLastCheck_ocLatch (t : BitVec 32) (s : State) :
    (setLastCheck t s).ocLatch = s.ocLatch := rfl
@[simp] theorem setLastCheck_fault (t : BitVec 32) (s : State) :
    (setLastCheck t s).fault = s.fault := rfl
@[simp] theorem setLastCheck_tx (t : BitVec 32) (s : State) :
    (setLastCheck t s).tx = s.tx := rfl
@[simp] theorem setLastCheck_mon (t : BitVec 32) (s : State) :
    (setLastCheck t s).mon = { s.mon with lastCheckMs := t } := rfl
@[simp] theorem setLastCheck_lines (t : BitVec 32) (s : State) :
    (setLastCheck t s).lines = s.lines := rfl
@[simp] theorem setLastCheck_port (t : BitVec 32) (s : State) :
    (setLastCheck t s).port = s.port := rfl
@[simp] theorem setLastCheck_env (t : BitVec 32) (s : State) :
    (setLastCheck t s).env = s.env := rfl
@[simp] theorem setLastCheck_obs (t : BitVec 32) (s : State) :
    (setLastCheck t s).obs = s.obs := rfl
@[simp] theorem setLastCheck_enc (t : BitVec 32) (s : State) :
    (setLastCheck t s).enc = s.enc := rfl
@[simp] theorem setLastCheck_nLoco (t : BitVec 32) (s : State) : (setLastCheck t s).nLoco = s.nLoco := rfl
@[simp] theorem setLastCheck_anyDirty (t : BitVec 32) (s : State) : (setLastCheck t s).anyDirty = s.anyDirty := rfl

/-! ### `setOcLatch` -/

@[simp] theorem setOcLatch_cfg (s : State) :
    (setOcLatch s).cfg = s.cfg := rfl
@[simp] theorem setOcLatch_slots (s : State) :
    (setOcLatch s).slots = s.slots := rfl
@[simp] theorem setOcLatch_regDirty (s : State) :
    (setOcLatch s).regDirty = s.regDirty := rfl
@[simp] theorem setOcLatch_power (s : State) :
    (setOcLatch s).power = s.power := rfl
@[simp] theorem setOcLatch_estop (s : State) :
    (setOcLatch s).estop = s.estop := rfl
@[simp] theorem setOcLatch_ocLatch (s : State) :
    (setOcLatch s).ocLatch = true := rfl
@[simp] theorem setOcLatch_fault (s : State) :
    (setOcLatch s).fault = s.fault := rfl
@[simp] theorem setOcLatch_tx (s : State) :
    (setOcLatch s).tx = s.tx := rfl
@[simp] theorem setOcLatch_mon (s : State) :
    (setOcLatch s).mon = s.mon := rfl
@[simp] theorem setOcLatch_lines (s : State) :
    (setOcLatch s).lines = s.lines := rfl
@[simp] theorem setOcLatch_port (s : State) :
    (setOcLatch s).port = s.port := rfl
@[simp] theorem setOcLatch_env (s : State) :
    (setOcLatch s).env = s.env := rfl
@[simp] theorem setOcLatch_obs (s : State) :
    (setOcLatch s).obs = s.obs := rfl
@[simp] theorem setOcLatch_enc (s : State) :
    (setOcLatch s).enc = s.enc := rfl
@[simp] theorem setOcLatch_nLoco (s : State) : (setOcLatch s).nLoco = s.nLoco := rfl
@[simp] theorem setOcLatch_anyDirty (s : State) : (setOcLatch s).anyDirty = s.anyDirty := rfl

/-! ### `energise` -/

@[simp] theorem energise_cfg (s : State) :
    (energise s).cfg = s.cfg := rfl
@[simp] theorem energise_slots (s : State) :
    (energise s).slots = s.slots := rfl
@[simp] theorem energise_regDirty (s : State) :
    (energise s).regDirty = s.regDirty := rfl
@[simp] theorem energise_power (s : State) :
    (energise s).power = true := rfl
@[simp] theorem energise_estop (s : State) :
    (energise s).estop = s.estop := rfl
@[simp] theorem energise_ocLatch (s : State) :
    (energise s).ocLatch = s.ocLatch := rfl
@[simp] theorem energise_fault (s : State) :
    (energise s).fault = s.fault := rfl
@[simp] theorem energise_tx (s : State) :
    (energise s).tx = s.tx := rfl
@[simp] theorem energise_mon (s : State) :
    (energise s).mon = s.mon := rfl
@[simp] theorem energise_lines (s : State) :
    (energise s).lines = linesOn := rfl
@[simp] theorem energise_port (s : State) :
    (energise s).port = s.port := rfl
@[simp] theorem energise_env (s : State) :
    (energise s).env = s.env := rfl
@[simp] theorem energise_obs (s : State) :
    (energise s).obs = { s.obs with lineTrace := s.obs.lineTrace ++ [{ s.lines with pwmEn := true }] ++ [⟨false, true, s.lines.pwrEn⟩] ++ [linesOn] } := rfl
@[simp] theorem energise_enc (s : State) :
    (energise s).enc = s.enc := rfl
@[simp] theorem energise_nLoco (s : State) : (energise s).nLoco = s.nLoco := rfl
@[simp] theorem energise_anyDirty (s : State) : (energise s).anyDirty = s.anyDirty := rfl

/-! ### `powerDown` -/

@[simp] theorem powerDown_cfg (s : State) :
    (powerDown s).cfg = s.cfg := rfl
@[simp] theorem powerDown_slots (s : State) :
    (powerDown s).slots = s.slots := rfl
@[simp] theorem powerDown_regDirty (s : State) :
    (powerDown s).regDirty = s.regDirty := rfl
@[simp] theorem powerDown_power (s : State) :
    (powerDown s).power = false := rfl
@[simp] theorem powerDown_estop (s : State) :
    (powerDown s).estop = false := rfl
@[simp] theorem powerDown_ocLatch (s : State) :
    (powerDown s).ocLatch = false := rfl
@[simp] theorem powerDown_fault (s : State) :
    (powerDown s).fault = s.fault := rfl
@[simp] theorem powerDown_tx (s : State) :
    (powerDown s).tx = s.tx := rfl
@[simp] theorem powerDown_mon (s : State) :
    (powerDown s).mon = s.mon := rfl
@[simp] theorem powerDown_lines (s : State) :
    (powerDown s).lines = linesOff := rfl
@[simp] theorem powerDown_port (s : State) :
    (powerDown s).port = s.port := rfl
@[simp] theorem powerDown_env (s : State) :
    (powerDown s).env = s.env := rfl
@[simp] theorem powerDown_obs (s : State) :
    (powerDown s).obs = { s.obs with lineTrace := s.obs.lineTrace ++ [{ s.lines with brake := true }] ++ [⟨true, false, s.lines.pwrEn⟩] ++ [linesOff] } := rfl
@[simp] theorem powerDown_enc (s : State) :
    (powerDown s).enc = s.enc := rfl
@[simp] theorem powerDown_nLoco (s : State) : (powerDown s).nLoco = s.nLoco := rfl
@[simp] theorem powerDown_anyDirty (s : State) : (powerDown s).anyDirty = s.anyDirty := rfl

/-! ### `commit` -/

@[simp] theorem commit_cfg (seq : List Word) (s : State) :
    (commit seq s).cfg = s.cfg := rfl
@[simp] theorem commit_slots (seq : List Word) (s : State) :
    (commit seq s).slots = s.slots := rfl
@[simp] theorem commit_regDirty (seq : List Word) (s : State) :
    (commit seq s).regDirty = s.regDirty := rfl
@[simp] theorem commit_power (seq : List Word) (s : State) :
    (commit seq s).power = s.power := rfl
@[simp] theorem commit_estop (seq : List Word) (s : State) :
    (commit seq s).estop = s.estop := rfl
@[simp] theorem commit_ocLatch (seq : List Word) (s : State) :
    (commit seq s).ocLatch = s.ocLatch := rfl
@[simp] theorem commit_fault (seq : List Word) (s : State) :
    (commit seq s).fault = s.fault := rfl
@[simp] theorem commit_tx (seq : List Word) (s : State) :
    (commit seq s).tx = s.tx.handoff seq := rfl
@[simp] theorem commit_mon (seq : List Word) (s : State) :
    (commit seq s).mon = s.mon := rfl
@[simp] theorem commit_lines (seq : List Word) (s : State) :
    (commit seq s).lines = s.lines := rfl
@[simp] theorem commit_port (seq : List Word) (s : State) :
    (commit seq s).port = s.port := rfl
@[simp] theorem commit_env (seq : List Word) (s : State) :
    (commit seq s).env = s.env := rfl
@[simp] theorem commit_obs (seq : List Word) (s : State) :
    (commit seq s).obs = s.obs := rfl
@[simp] theorem commit_enc (seq : List Word) (s : State) :
    (commit seq s).enc = s.enc := rfl
@[simp] theorem commit_nLoco (seq : List Word) (s : State) : (commit seq s).nLoco = s.nLoco := rfl
@[simp] theorem commit_anyDirty (seq : List Word) (s : State) : (commit seq s).anyDirty = s.anyDirty := rfl

/-! ### `clearEstop` -/

@[simp] theorem clearEstop_cfg (s : State) :
    (clearEstop s).cfg = s.cfg := rfl
@[simp] theorem clearEstop_slots (s : State) :
    (clearEstop s).slots = s.slots := rfl
@[simp] theorem clearEstop_regDirty (s : State) :
    (clearEstop s).regDirty = s.regDirty := rfl
@[simp] theorem clearEstop_power (s : State) :
    (clearEstop s).power = s.power := rfl
@[simp] theorem clearEstop_estop (s : State) :
    (clearEstop s).estop = false := rfl
@[simp] theorem clearEstop_ocLatch (s : State) :
    (clearEstop s).ocLatch = s.ocLatch := rfl
@[simp] theorem clearEstop_fault (s : State) :
    (clearEstop s).fault = s.fault := rfl
@[simp] theorem clearEstop_tx (s : State) :
    (clearEstop s).tx = s.tx := rfl
@[simp] theorem clearEstop_mon (s : State) :
    (clearEstop s).mon = s.mon := rfl
@[simp] theorem clearEstop_lines (s : State) :
    (clearEstop s).lines = s.lines := rfl
@[simp] theorem clearEstop_port (s : State) :
    (clearEstop s).port = s.port := rfl
@[simp] theorem clearEstop_env (s : State) :
    (clearEstop s).env = s.env := rfl
@[simp] theorem clearEstop_obs (s : State) :
    (clearEstop s).obs = s.obs := rfl
@[simp] theorem clearEstop_enc (s : State) :
    (clearEstop s).enc = s.enc := rfl
@[simp] theorem clearEstop_nLoco (s : State) : (clearEstop s).nLoco = s.nLoco := rfl
@[simp] theorem clearEstop_anyDirty (s : State) : (clearEstop s).anyDirty = s.anyDirty := rfl

/-! ### `hold` -/

@[simp] theorem hold_cfg (s : State) :
    (hold s).cfg = s.cfg := rfl
@[simp] theorem hold_slots (s : State) :
    (hold s).slots = s.slots := rfl
@[simp] theorem hold_regDirty (s : State) :
    (hold s).regDirty = s.regDirty := rfl
@[simp] theorem hold_power (s : State) :
    (hold s).power = s.power := rfl
@[simp] theorem hold_estop (s : State) :
    (hold s).estop = s.estop := rfl
@[simp] theorem hold_ocLatch (s : State) :
    (hold s).ocLatch = s.ocLatch := rfl
@[simp] theorem hold_fault (s : State) :
    (hold s).fault = s.fault := rfl
@[simp] theorem hold_tx (s : State) :
    (hold s).tx = s.tx := rfl
@[simp] theorem hold_mon (s : State) :
    (hold s).mon = s.mon := rfl
@[simp] theorem hold_lines (s : State) :
    (hold s).lines = s.lines := rfl
@[simp] theorem hold_port (s : State) :
    (hold s).port = { s.port with held := true, rspValid := false } := rfl
@[simp] theorem hold_env (s : State) :
    (hold s).env = s.env := rfl
@[simp] theorem hold_obs (s : State) :
    (hold s).obs = s.obs := rfl
@[simp] theorem hold_enc (s : State) :
    (hold s).enc = s.enc := rfl
@[simp] theorem hold_nLoco (s : State) : (hold s).nLoco = s.nLoco := rfl
@[simp] theorem hold_anyDirty (s : State) : (hold s).anyDirty = s.anyDirty := rfl

/-! ### `release` -/

@[simp] theorem release_cfg (s : State) :
    (release s).cfg = s.cfg := rfl
@[simp] theorem release_slots (s : State) :
    (release s).slots = s.slots := rfl
@[simp] theorem release_regDirty (s : State) :
    (release s).regDirty = s.regDirty := rfl
@[simp] theorem release_power (s : State) :
    (release s).power = s.power := rfl
@[simp] theorem release_estop (s : State) :
    (release s).estop = s.estop := rfl
@[simp] theorem release_ocLatch (s : State) :
    (release s).ocLatch = s.ocLatch := rfl
@[simp] theorem release_fault (s : State) :
    (release s).fault = s.fault := rfl
@[simp] theorem release_tx (s : State) :
    (release s).tx = s.tx := rfl
@[simp] theorem release_mon (s : State) :
    (release s).mon = s.mon := rfl
@[simp] theorem release_lines (s : State) :
    (release s).lines = s.lines := rfl
@[simp] theorem release_port (s : State) :
    (release s).port = { s.port with held := false } := rfl
@[simp] theorem release_env (s : State) :
    (release s).env = s.env := rfl
@[simp] theorem release_obs (s : State) :
    (release s).obs = s.obs := rfl
@[simp] theorem release_enc (s : State) :
    (release s).enc = s.enc := rfl
@[simp] theorem release_nLoco (s : State) : (release s).nLoco = s.nLoco := rfl
@[simp] theorem release_anyDirty (s : State) : (release s).anyDirty = s.anyDirty := rfl

/-! ### `emitAddress` -/

@[simp] theorem emitAddress_cfg (b : List Byte) (s : State) :
    (emitAddress b s).cfg = s.cfg := rfl
@[simp] theorem emitAddress_slots (b : List Byte) (s : State) :
    (emitAddress b s).slots = s.slots := rfl
@[simp] theorem emitAddress_regDirty (b : List Byte) (s : State) :
    (emitAddress b s).regDirty = s.regDirty := rfl
@[simp] theorem emitAddress_power (b : List Byte) (s : State) :
    (emitAddress b s).power = s.power := rfl
@[simp] theorem emitAddress_estop (b : List Byte) (s : State) :
    (emitAddress b s).estop = s.estop := rfl
@[simp] theorem emitAddress_ocLatch (b : List Byte) (s : State) :
    (emitAddress b s).ocLatch = s.ocLatch := rfl
@[simp] theorem emitAddress_fault (b : List Byte) (s : State) :
    (emitAddress b s).fault = s.fault := rfl
@[simp] theorem emitAddress_tx (b : List Byte) (s : State) :
    (emitAddress b s).tx = s.tx := rfl
@[simp] theorem emitAddress_mon (b : List Byte) (s : State) :
    (emitAddress b s).mon = s.mon := rfl
@[simp] theorem emitAddress_lines (b : List Byte) (s : State) :
    (emitAddress b s).lines = s.lines := rfl
@[simp] theorem emitAddress_port (b : List Byte) (s : State) :
    (emitAddress b s).port = s.port := rfl
@[simp] theorem emitAddress_env (b : List Byte) (s : State) :
    (emitAddress b s).env = s.env := rfl
@[simp] theorem emitAddress_obs (b : List Byte) (s : State) :
    (emitAddress b s).obs = s.obs := rfl
@[simp] theorem emitAddress_enc (b : List Byte) (s : State) :
    (emitAddress b s).enc = { s.enc with instr := b } := rfl
@[simp] theorem emitAddress_nLoco (b : List Byte) (s : State) : (emitAddress b s).nLoco = s.nLoco := rfl
@[simp] theorem emitAddress_anyDirty (b : List Byte) (s : State) : (emitAddress b s).anyDirty = s.anyDirty := rfl

/-! ### `emitCommand` -/

@[simp] theorem emitCommand_cfg (b : List Byte) (s : State) :
    (emitCommand b s).cfg = s.cfg := rfl
@[simp] theorem emitCommand_slots (b : List Byte) (s : State) :
    (emitCommand b s).slots = s.slots := rfl
@[simp] theorem emitCommand_regDirty (b : List Byte) (s : State) :
    (emitCommand b s).regDirty = s.regDirty := rfl
@[simp] theorem emitCommand_power (b : List Byte) (s : State) :
    (emitCommand b s).power = s.power := rfl
@[simp] theorem emitCommand_estop (b : List Byte) (s : State) :
    (emitCommand b s).estop = s.estop := rfl
@[simp] theorem emitCommand_ocLatch (b : List Byte) (s : State) :
    (emitCommand b s).ocLatch = s.ocLatch := rfl
@[simp] theorem emitCommand_fault (b : List Byte) (s : State) :
    (emitCommand b s).fault = s.fault := rfl
@[simp] theorem emitCommand_tx (b : List Byte) (s : State) :
    (emitCommand b s).tx = s.tx := rfl
@[simp] theorem emitCommand_mon (b : List Byte) (s : State) :
    (emitCommand b s).mon = s.mon := rfl
@[simp] theorem emitCommand_lines (b : List Byte) (s : State) :
    (emitCommand b s).lines = s.lines := rfl
@[simp] theorem emitCommand_port (b : List Byte) (s : State) :
    (emitCommand b s).port = s.port := rfl
@[simp] theorem emitCommand_env (b : List Byte) (s : State) :
    (emitCommand b s).env = s.env := rfl
@[simp] theorem emitCommand_obs (b : List Byte) (s : State) :
    (emitCommand b s).obs = s.obs := rfl
@[simp] theorem emitCommand_enc (b : List Byte) (s : State) :
    (emitCommand b s).enc = { s.enc with instr := s.enc.instr ++ b } := rfl
@[simp] theorem emitCommand_nLoco (b : List Byte) (s : State) : (emitCommand b s).nLoco = s.nLoco := rfl
@[simp] theorem emitCommand_anyDirty (b : List Byte) (s : State) : (emitCommand b s).anyDirty = s.anyDirty := rfl

/-! ### `emitPacket` -/

@[simp] theorem emitPacket_cfg (ws : List Word) (s : State) :
    (emitPacket ws s).cfg = s.cfg := rfl
@[simp] theorem emitPacket_slots (ws : List Word) (s : State) :
    (emitPacket ws s).slots = s.slots := rfl
@[simp] theorem emitPacket_regDirty (ws : List Word) (s : State) :
    (emitPacket ws s).regDirty = s.regDirty := rfl
@[simp] theorem emitPacket_power (ws : List Word) (s : State) :
    (emitPacket ws s).power = s.power := rfl
@[simp] theorem emitPacket_estop (ws : List Word) (s : State) :
    (emitPacket ws s).estop = s.estop := rfl
@[simp] theorem emitPacket_ocLatch (ws : List Word) (s : State) :
    (emitPacket ws s).ocLatch = s.ocLatch := rfl
@[simp] theorem emitPacket_fault (ws : List Word) (s : State) :
    (emitPacket ws s).fault = s.fault := rfl
@[simp] theorem emitPacket_tx (ws : List Word) (s : State) :
    (emitPacket ws s).tx = s.tx := rfl
@[simp] theorem emitPacket_mon (ws : List Word) (s : State) :
    (emitPacket ws s).mon = s.mon := rfl
@[simp] theorem emitPacket_lines (ws : List Word) (s : State) :
    (emitPacket ws s).lines = s.lines := rfl
@[simp] theorem emitPacket_port (ws : List Word) (s : State) :
    (emitPacket ws s).port = s.port := rfl
@[simp] theorem emitPacket_env (ws : List Word) (s : State) :
    (emitPacket ws s).env = s.env := rfl
@[simp] theorem emitPacket_obs (ws : List Word) (s : State) :
    (emitPacket ws s).obs = s.obs := rfl
@[simp] theorem emitPacket_enc (ws : List Word) (s : State) :
    (emitPacket ws s).enc = { instr := [], seq := s.enc.seq ++ ws } := rfl
@[simp] theorem emitPacket_nLoco (ws : List Word) (s : State) : (emitPacket ws s).nLoco = s.nLoco := rfl
@[simp] theorem emitPacket_anyDirty (ws : List Word) (s : State) : (emitPacket ws s).anyDirty = s.anyDirty := rfl

/-! ### `setInputs` -/

@[simp] theorem setInputs_cfg (l : List Input) (s : State) :
    (setInputs l s).cfg = s.cfg := rfl
@[simp] theorem setInputs_slots (l : List Input) (s : State) :
    (setInputs l s).slots = s.slots := rfl
@[simp] theorem setInputs_regDirty (l : List Input) (s : State) :
    (setInputs l s).regDirty = s.regDirty := rfl
@[simp] theorem setInputs_power (l : List Input) (s : State) :
    (setInputs l s).power = s.power := rfl
@[simp] theorem setInputs_estop (l : List Input) (s : State) :
    (setInputs l s).estop = s.estop := rfl
@[simp] theorem setInputs_ocLatch (l : List Input) (s : State) :
    (setInputs l s).ocLatch = s.ocLatch := rfl
@[simp] theorem setInputs_fault (l : List Input) (s : State) :
    (setInputs l s).fault = s.fault := rfl
@[simp] theorem setInputs_tx (l : List Input) (s : State) :
    (setInputs l s).tx = s.tx := rfl
@[simp] theorem setInputs_mon (l : List Input) (s : State) :
    (setInputs l s).mon = s.mon := rfl
@[simp] theorem setInputs_lines (l : List Input) (s : State) :
    (setInputs l s).lines = s.lines := rfl
@[simp] theorem setInputs_port (l : List Input) (s : State) :
    (setInputs l s).port = s.port := rfl
@[simp] theorem setInputs_env (l : List Input) (s : State) :
    (setInputs l s).env = { s.env with inputs := l } := rfl
@[simp] theorem setInputs_obs (l : List Input) (s : State) :
    (setInputs l s).obs = s.obs := rfl
@[simp] theorem setInputs_enc (l : List Input) (s : State) :
    (setInputs l s).enc = s.enc := rfl
@[simp] theorem setInputs_nLoco (l : List Input) (s : State) : (setInputs l s).nLoco = s.nLoco := rfl
@[simp] theorem setInputs_anyDirty (l : List Input) (s : State) : (setInputs l s).anyDirty = s.anyDirty := rfl

/-! ### `offer` -/

@[simp] theorem offer_cfg (l : List Input) (a : List (BitVec 16)) (m : List (BitVec 32)) (s : State) :
    (offer l a m s).cfg = s.cfg := rfl
@[simp] theorem offer_slots (l : List Input) (a : List (BitVec 16)) (m : List (BitVec 32)) (s : State) :
    (offer l a m s).slots = s.slots := rfl
@[simp] theorem offer_regDirty (l : List Input) (a : List (BitVec 16)) (m : List (BitVec 32)) (s : State) :
    (offer l a m s).regDirty = s.regDirty := rfl
@[simp] theorem offer_power (l : List Input) (a : List (BitVec 16)) (m : List (BitVec 32)) (s : State) :
    (offer l a m s).power = s.power := rfl
@[simp] theorem offer_estop (l : List Input) (a : List (BitVec 16)) (m : List (BitVec 32)) (s : State) :
    (offer l a m s).estop = s.estop := rfl
@[simp] theorem offer_ocLatch (l : List Input) (a : List (BitVec 16)) (m : List (BitVec 32)) (s : State) :
    (offer l a m s).ocLatch = s.ocLatch := rfl
@[simp] theorem offer_fault (l : List Input) (a : List (BitVec 16)) (m : List (BitVec 32)) (s : State) :
    (offer l a m s).fault = s.fault := rfl
@[simp] theorem offer_tx (l : List Input) (a : List (BitVec 16)) (m : List (BitVec 32)) (s : State) :
    (offer l a m s).tx = s.tx := rfl
@[simp] theorem offer_mon (l : List Input) (a : List (BitVec 16)) (m : List (BitVec 32)) (s : State) :
    (offer l a m s).mon = s.mon := rfl
@[simp] theorem offer_lines (l : List Input) (a : List (BitVec 16)) (m : List (BitVec 32)) (s : State) :
    (offer l a m s).lines = s.lines := rfl
@[simp] theorem offer_port (l : List Input) (a : List (BitVec 16)) (m : List (BitVec 32)) (s : State) :
    (offer l a m s).port = s.port := rfl
@[simp] theorem offer_env (l : List Input) (a : List (BitVec 16)) (m : List (BitVec 32)) (s : State) :
    (offer l a m s).env = { s.env with inputs := s.env.inputs ++ l, adc := s.env.adc ++ a, time := s.env.time ++ m } := rfl
@[simp] theorem offer_obs (l : List Input) (a : List (BitVec 16)) (m : List (BitVec 32)) (s : State) :
    (offer l a m s).obs = s.obs := rfl
@[simp] theorem offer_enc (l : List Input) (a : List (BitVec 16)) (m : List (BitVec 32)) (s : State) :
    (offer l a m s).enc = s.enc := rfl
@[simp] theorem offer_nLoco (l : List Input) (a : List (BitVec 16)) (m : List (BitVec 32)) (s : State) : (offer l a m s).nLoco = s.nLoco := rfl
@[simp] theorem offer_anyDirty (l : List Input) (a : List (BitVec 16)) (m : List (BitVec 32)) (s : State) : (offer l a m s).anyDirty = s.anyDirty := rfl

/-! ### `blockReset` -/

@[simp] theorem blockReset_cfg (s : State) :
    (s.blockReset).cfg = s.cfg := rfl
@[simp] theorem blockReset_slots (s : State) :
    (s.blockReset).slots = (State.resetWith s.cfg).slots := rfl
@[simp] theorem blockReset_regDirty (s : State) :
    (s.blockReset).regDirty = (State.resetWith s.cfg).regDirty := rfl
@[simp] theorem blockReset_power (s : State) :
    (s.blockReset).power = (State.resetWith s.cfg).power := rfl
@[simp] theorem blockReset_estop (s : State) :
    (s.blockReset).estop = (State.resetWith s.cfg).estop := rfl
@[simp] theorem blockReset_ocLatch (s : State) :
    (s.blockReset).ocLatch = (State.resetWith s.cfg).ocLatch := rfl
@[simp] theorem blockReset_fault (s : State) :
    (s.blockReset).fault = (State.resetWith s.cfg).fault := rfl
@[simp] theorem blockReset_tx (s : State) :
    (s.blockReset).tx = (State.resetWith s.cfg).tx := rfl
@[simp] theorem blockReset_mon (s : State) :
    (s.blockReset).mon = (State.resetWith s.cfg).mon := rfl
@[simp] theorem blockReset_lines (s : State) :
    (s.blockReset).lines = (State.resetWith s.cfg).lines := rfl
@[simp] theorem blockReset_port (s : State) :
    (s.blockReset).port = (State.resetWith s.cfg).port := rfl
@[simp] theorem blockReset_env (s : State) :
    (s.blockReset).env = s.env := rfl
@[simp] theorem blockReset_obs (s : State) :
    (s.blockReset).obs = s.obs := rfl
@[simp] theorem blockReset_enc (s : State) :
    (s.blockReset).enc = (State.resetWith s.cfg).enc := rfl

end Sys2Proof.Machine
end

