-- ==== Sys2Proof/Laws/CurrentMonitor.lean ====
section
/-! SUPPORT. What `last_ma` can hold after a sample. -/

namespace Sys2Proof.Machine

/-- A number that fits is held as it is (R251). -/
@[simp] theorem lastMaOf_of_fits {c : Config} {ma : Int} (h : c.maFits ma = true) : lastMaOf c ma = ma := if_pos h

/-- Any value of `maBits` bits fits the signed width (R31). -/
theorem maFits_toInt {c : Config} (v : BitVec c.maBits) : c.maFits v.toInt = true := by
  have h1 := BitVec.le_toInt v
  have h2 := BitVec.toInt_lt (x := v)
  simp [Config.maFits, h1, h2]

/-- Whatever the sample, `last_ma` holds a number of its width (R31). -/
theorem maFits_lastMaOf (c : Config) (ma : Int) : c.maFits (lastMaOf c ma) = true := by
  unfold lastMaOf
  split
  · assumption
  · exact maFits_toInt _

end Sys2Proof.Machine
end

