-- ==== Sys2Proof/Laws/Decode.lean ====
section
/-! SUPPORT. Small facts about the encodings: each row's word matches its row, a matched row fixes the opcode, and the fixed
bits of the wire bytes. -/

namespace Sys2Proof

/-- A word that matches a row whose mask covers `op` has the row's `op`. -/
theorem op_of_rowMatches {w pat mask : Word} (h : rowMatches w pat mask = true)
    (hm : mask.extractLsb' 28 4 = 0xF#4) : w.extractLsb' 28 4 = pat.extractLsb' 28 4 := by
  have hw : w &&& mask = pat := by simpa [rowMatches] using h
  rw [← hw, BitVec.extractLsb'_and, hm]
  exact (BitVec.and_allOnes (x := w.extractLsb' 28 4)).symm

/-- The `op` field of a reserved word. -/
theorem op_reserved (op : BitVec 4) (a : BitVec 28) :
    (fieldAt op 28 ||| fieldAt a 0).extractLsb' 28 4 = op := by
  apply BitVec.eq_of_getLsbD_eq; intro i hi
  interval_cases i <;> simp [fieldAt]

/-- The `op` field of a command word whose operands stay below bit 28. -/
theorem op_cmdWord (op : BitVec 4) (h : BitVec 8) (arg : Word) (ha : arg.extractLsb' 28 4 = 0#4) :
    (cmdWord op h arg).extractLsb' 28 4 = op := by
  unfold cmdWord
  rw [BitVec.extractLsb'_or, ha]
  apply BitVec.eq_of_getLsbD_eq; intro i hi
  interval_cases i <;> simp [fieldAt]

theorem create_row (a : BitVec 14) (l : Bool) (m : BitVec 2) :
    rowMatches (cmdWord 0x1#4 0#8 (fieldAt m 15 ||| fieldAt (bit1 l) 14 ||| fieldAt a 0))
      0x10000000#32 0xFFFE0000#32 = true := by
  rw [rowMatches, decide_eq_true_eq]
  apply BitVec.eq_of_getLsbD_eq; intro i hi
  interval_cases i <;> simp [cmdWord, fieldAt]

theorem drive_row (h : BitVec 8) (d : Bool) (v : BitVec 8) :
    rowMatches (cmdWord 0x2#4 h (fieldAt (bit1 d) 8 ||| fieldAt v 0)) 0x20000000#32 0xF00FFE00#32 = true := by
  rw [rowMatches, decide_eq_true_eq]
  apply BitVec.eq_of_getLsbD_eq; intro i hi
  interval_cases i <;> simp [cmdWord, fieldAt]

theorem setFn_row (h : BitVec 8) (f : BitVec 5) (v : Bool) :
    rowMatches (cmdWord 0x3#4 h (fieldAt (bit1 v) 8 ||| fieldAt f 0)) 0x30000000#32 0xF00FFEE0#32 = true := by
  rw [rowMatches, decide_eq_true_eq]
  apply BitVec.eq_of_getLsbD_eq; intro i hi
  interval_cases i <;> simp [cmdWord, fieldAt]

theorem getFn_row (h : BitVec 8) (f : BitVec 5) :
    rowMatches (cmdWord 0x4#4 h (fieldAt f 0)) 0x40000000#32 0xF00FFFE0#32 = true := by
  rw [rowMatches, decide_eq_true_eq]
  apply BitVec.eq_of_getLsbD_eq; intro i hi
  interval_cases i <;> simp [cmdWord, fieldAt]

theorem reserved_row (op : BitVec 4) (a : BitVec 28) :
    rowMatches (fieldAt op 28 ||| fieldAt a 0) (fieldAt op 28) 0xF0000000#32 = true := by
  rw [rowMatches, decide_eq_true_eq]
  apply BitVec.eq_of_getLsbD_eq; intro i hi
  interval_cases i <;> simp [fieldAt]

theorem shortAddrByte_top (a : BitVec 7) : shortAddrByte a &&& 0x80#8 = 0x00#8 := by revert a; decide

theorem longAddrByte_top (a : BitVec 14) : (0xC0#8 ||| byteField (a.extractLsb' 8 6) 0) &&& 0xC0#8 = 0xC0#8 := by
  generalize a.extractLsb' 8 6 = b; revert b; decide

theorem speed28Byte_top (d c : Bool) (s : BitVec 4) : speed28Byte d c s &&& 0xC0#8 = 0x40#8 := by
  revert d c s; decide

theorem fnGroup0Byte_top (f : BitVec 5) : fnGroup0Byte f &&& 0xE0#8 = 0x80#8 := by revert f; decide

theorem fnGroup1Byte_top (f : BitVec 4) : fnGroup1Byte f &&& 0xF0#8 = 0xB0#8 := by revert f; decide

theorem fnGroup2Byte_top (f : BitVec 4) : fnGroup2Byte f &&& 0xF0#8 = 0xA0#8 := by revert f; decide

theorem wf_of_ite {c : Prop} [Decidable c] {j i : Instr} {e : Except DecodeError Instr} (hj : j.wf = true)
    (he : e = .ok i → i.wf = true) (h : (if c then .ok j else e) = .ok i) : i.wf = true := by
  by_cases hc : c
  · rw [if_pos hc] at h; injection h with h; exact h ▸ hj
  · rw [if_neg hc] at h; exact he h

theorem wf_of_decodeCmd {w : Word} {i : Instr} : decodeCmd w = .ok i → i.wf = true := by
  unfold decodeCmd
  iterate 16 refine wf_of_ite rfl ?_
  exact fun h => by cases h

theorem wf_of_decodeAddress {bs : List Byte} {i : Instr} (h : decodeAddress bs = .ok i) : i.wf = true := by
  unfold decodeAddress at h
  split at h <;> (try split_ifs at h) <;> first | (cases h; done) | (cases h; rfl)

theorem wf_of_decodeCommand {bs : List Byte} {i : Instr} (h : decodeCommand bs = .ok i) : i.wf = true := by
  unfold decodeCommand at h
  split at h <;> (try split_ifs at h) <;> first | (cases h; done) | (cases h; rfl)

theorem wf_of_decodeWhole {bs : List Byte} {i : Instr} (h : decodeWhole bs = .ok i) : i.wf = true := by
  unfold decodeWhole at h
  split_ifs at h <;> injection h with h <;> subst h <;> rfl

/-- A frame is read only if it is the frame the block makes of a legal Instruction (R190, log 12). -/
theorem packetWords_of_unframe {ws : List Word} {bs : List Byte} (h : Machine.unframe ws = some bs) :
    legalLength bs.length = true ∧ Machine.packetWords bs = ws := by
  unfold Machine.unframe at h
  split at h
  · rename_i all _
    by_cases hf : Machine.framePacket all.dropLast = some ws
    · rw [if_pos hf] at h
      injection h with h
      subst h
      unfold Machine.framePacket at hf
      split_ifs at hf with hl
      injection hf with hf
      exact ⟨hl, hf⟩
    · rw [if_neg hf] at h
      cases h
  · cases h

theorem wf_of_decodeFrame {ws : List Word} {i : Instr} (h : decodeFrame ws = .ok i) : i.wf = true := by
  unfold decodeFrame at h
  split at h
  · rename_i bytes hu
    injection h with h
    subst h
    exact (packetWords_of_unframe hu).1
  · cases h

/-- The decoder answers well-formed instructions only. -/
theorem wf_of_decode {n : Input} {i : Instr} (h : decode n = .ok i) : i.wf = true := by
  cases n with
  | cmd w => exact wf_of_decodeCmd h
  | pop => injection h with h; subst h; rfl
  | rst b => cases h
  | wire p bytes =>
    cases p
    · exact wf_of_decodeAddress h
    · exact wf_of_decodeCommand h
    · exact wf_of_decodeWhole h
  | frame ws => exact wf_of_decodeFrame h

end Sys2Proof
end

