-- ==== Sys2Proof/Laws/Memory.lean ====
section
/-! SUPPORT. The words of the banks: reads after writes, the canonical form, and what a hand-off and a pop do. -/

namespace Sys2Proof.Machine

/-- A read at the written index gives the word written. -/
@[simp] theorem read_write_same (m : Memory) (i : Nat) (v : Word) : (m.write i v).read i = some v := by
  induction m with
  | nil => simp [Memory.write, Memory.read]
  | cons c m ih =>
    obtain ⟨j, u⟩ := c
    unfold Memory.write
    split
    · simp [Memory.read]
    · split
      · simp [Memory.read]
      · rename_i h; simp [Memory.read, h, ih]

/-- A read at any other index is as before. -/
theorem read_write_other (m : Memory) {i k : Nat} (v : Word) (hk : k ≠ i) : (m.write i v).read k = m.read k := by
  induction m with
  | nil => simp [Memory.write, Memory.read, hk]
  | cons c m ih =>
    obtain ⟨j, u⟩ := c
    unfold Memory.write
    split
    · simp [Memory.read, hk]
    · split
      · rename_i h; subst h; simp [Memory.read, hk]
      · by_cases hj : k = j <;> simp [Memory.read, hj, ih]

/-- Writing keeps every index above a bound that the written one is above. -/
theorem above_write {m : Memory} {b i : Nat} (v : Word) (hm : m.above b = true) (hi : b < i) :
    (m.write i v).above b = true := by
  induction m with
  | nil => simpa [Memory.write, Memory.above] using hi
  | cons c m ih =>
    obtain ⟨j, u⟩ := c
    simp only [Memory.above, List.all_cons, Bool.and_eq_true, decide_eq_true_eq] at hm
    have ih' := ih (by simpa [Memory.above] using hm.2)
    simp only [Memory.above] at ih'
    unfold Memory.write Memory.above
    split
    · simp only [List.all_cons, Bool.and_eq_true, decide_eq_true_eq]; exact ⟨hi, hm⟩
    · split
      · simp only [List.all_cons, Bool.and_eq_true, decide_eq_true_eq]; exact ⟨hi, hm.2⟩
      · simp only [List.all_cons, Bool.and_eq_true, decide_eq_true_eq]; exact ⟨hm.1, ih'⟩

/-- A smaller bound is a bound too. -/
theorem above_mono {m : Memory} {a b : Nat} (h : a ≤ b) (hm : m.above b = true) : m.above a = true := by
  simp only [Memory.above, List.all_eq_true, decide_eq_true_eq] at hm ⊢
  exact fun c hc => lt_of_le_of_lt h (hm c hc)

/-- Writing keeps the canonical form. -/
theorem wf_write {m : Memory} (i : Nat) (v : Word) (hm : m.wf = true) : (m.write i v).wf = true := by
  induction m with
  | nil => simp [Memory.write, Memory.wf, Memory.above]
  | cons c m ih =>
    obtain ⟨j, u⟩ := c
    simp only [Memory.wf, Bool.and_eq_true] at hm
    unfold Memory.write
    split
    · rename_i h
      simp only [Memory.wf, Bool.and_eq_true]
      refine ⟨?_, hm⟩
      simp only [Memory.above, List.all_cons, Bool.and_eq_true, decide_eq_true_eq]
      exact ⟨h, by simpa [Memory.above] using above_mono (Nat.le_of_lt h) hm.1⟩
    · split
      · rename_i h; subst h; simpa [Memory.wf] using hm
      · rename_i h1 h2
        simp only [Memory.wf, Bool.and_eq_true]
        exact ⟨above_write v hm.1 (by omega), ih hm.2⟩

/-- Writing a sequence keeps the canonical form. -/
theorem wf_writeFrom {m : Memory} (i : Nat) (vs : List Word) (hm : m.wf = true) : (m.writeFrom i vs).wf = true := by
  induction vs generalizing m i with
  | nil => exact hm
  | cons v vs ih => exact ih _ (wf_write i v hm)

/-- Below its first index a written sequence changes no read. -/
theorem read_writeFrom_below (m : Memory) (vs : List Word) {i k : Nat} (h : k < i) :
    (m.writeFrom i vs).read k = m.read k := by
  induction vs generalizing m i with
  | nil => rfl
  | cons v vs ih =>
    rw [Memory.writeFrom, ih _ (by omega), read_write_other _ _ (by omega)]

/-- Past its last index a written sequence changes no read. -/
theorem read_writeFrom_past (m : Memory) (vs : List Word) {i k : Nat} (h : i + vs.length ≤ k) :
    (m.writeFrom i vs).read k = m.read k := by
  induction vs generalizing m i with
  | nil => rfl
  | cons v vs ih =>
    simp only [List.length_cons] at h
    rw [Memory.writeFrom, ih _ (by omega), read_write_other _ _ (by omega)]

/-- A written sequence reads back. -/
theorem read_writeFrom_inside (m : Memory) (vs : List Word) (i : Nat) {k : Nat} (h : k < vs.length) :
    (m.writeFrom i vs).read (i + k) = some vs[k] := by
  induction vs generalizing m i k with
  | nil => simp at h
  | cons v vs ih =>
    rw [Memory.writeFrom]
    cases k with
    | zero => rw [Nat.add_zero, read_writeFrom_below _ _ (by omega)]; simp
    | succ k =>
      have := ih (m.write i v) (i + 1) (k := k) (by simpa using h)
      rw [show i + (k + 1) = i + 1 + k by omega, this]; simp

@[simp] theorem bank_setBank_same (t : TxBuffer) (b : Bool) (k : Bank) : (t.setBank b k).bank b = k := by
  cases b <;> rfl

@[simp] theorem bank_setBank_other (t : TxBuffer) (b : Bool) (k : Bank) : (t.setBank (!b) k).bank b = t.bank b := by
  cases b <;> rfl

@[simp] theorem handoff_active (t : TxBuffer) (seq : List Word) : (t.handoff seq).active = t.active := by
  unfold TxBuffer.handoff TxBuffer.setBank; cases t.active <;> rfl

@[simp] theorem handoff_rd (t : TxBuffer) (seq : List Word) : (t.handoff seq).rd = t.rd := by
  unfold TxBuffer.handoff TxBuffer.setBank; cases t.active <;> rfl

@[simp] theorem handoff_pending (t : TxBuffer) (seq : List Word) : (t.handoff seq).pending = true := rfl

/-- The bank the consumer reads is not touched by a hand-off (R225). -/
@[simp] theorem handoff_bank_active (t : TxBuffer) (seq : List Word) :
    (t.handoff seq).bank t.active = t.bank t.active := by
  have h : (t.handoff seq).bank t.active =
      (t.setBank (!t.active) ⟨seq.length, (t.bank (!t.active)).w.writeFrom 0 seq⟩).bank t.active := rfl
  rw [h, bank_setBank_other]

/-- The shadow bank after a hand-off (R225). -/
@[simp] theorem handoff_bank_shadow (t : TxBuffer) (seq : List Word) :
    (t.handoff seq).bank (!t.active) = ⟨seq.length, (t.bank (!t.active)).w.writeFrom 0 seq⟩ := by
  have h : (t.handoff seq).bank (!t.active) =
      (t.setBank (!t.active) ⟨seq.length, (t.bank (!t.active)).w.writeFrom 0 seq⟩).bank (!t.active) := rfl
  rw [h, bank_setBank_same]

/-- Everything a pop does to the transmit banks (R63): a wrap with or without a switch, or one word on. -/
theorem advance_cases (t : TxBuffer) :
    (t.rd + 1 = (t.bank t.active).len ∧ t.pending = true ∧
      t.advance = { t with rd := 0, active := !t.active, pending := false }) ∨
    (t.rd + 1 = (t.bank t.active).len ∧ t.pending = false ∧ t.advance = { t with rd := 0 }) ∨
    (t.rd + 1 ≠ (t.bank t.active).len ∧ t.advance = { t with rd := t.rd + 1 }) := by
  unfold TxBuffer.advance
  split
  · rename_i h
    cases hp : t.pending
    · exact .inr (.inl ⟨h, rfl, by simp⟩)
    · exact .inl ⟨h, rfl, by simp⟩
  · rename_i h; exact .inr (.inr ⟨h, rfl⟩)

end Sys2Proof.Machine
end

