-- ==== Sys2Proof/Laws/PerInstr.lean ====
section
/-! SUPPORT. A fact about every instruction as syntax: its encoding lies in its row of the opcode table. -/

namespace Sys2Proof.Laws.EncodingInItsRow

/-- The input is a command word of the row (R92). -/
def InCmdRow (n : Input) (pat mask : Word) : Prop := ∃ w, n = .cmd w ∧ rowMatches w pat mask = true

/-- The input is bytes at a place, each equal to its pattern under its mask (R103 to R108). -/
def InWireRow (n : Input) (p : Place) (rows : List (Byte × Byte)) : Prop :=
  ∃ bytes, n = .wire p bytes ∧ List.Forall₂ (fun b r => b &&& r.2 = r.1) bytes rows

/-- The encoding of the instruction lies in its row. -/
def Statement (i : Instr) : Prop :=
  match i with
  | .create _ _ _ => InCmdRow (encode i) 0x10000000#32 0xFFFE0000#32
  | .drive _ _ _ => InCmdRow (encode i) 0x20000000#32 0xF00FFE00#32
  | .setFn _ _ _ => InCmdRow (encode i) 0x30000000#32 0xF00FFEE0#32
  | .getFn _ _ => InCmdRow (encode i) 0x40000000#32 0xF00FFFE0#32
  | .beginCmd => InCmdRow (encode i) 0x50000000#32 0xFFFFFFFF#32
  | .deinit => InCmdRow (encode i) 0x60000000#32 0xFFFFFFFF#32
  | .loop => InCmdRow (encode i) 0x70000000#32 0xFFFFFFFF#32
  | .estop => InCmdRow (encode i) 0x80000000#32 0xFFFFFFFF#32
  | .powerOn => InCmdRow (encode i) 0x90000000#32 0xFFFFFFFF#32
  | .powerOff => InCmdRow (encode i) 0xA0000000#32 0xFFFFFFFF#32
  | .reservedOp0 _ => InCmdRow (encode i) 0x00000000#32 0xF0000000#32
  | .reservedOpB _ => InCmdRow (encode i) 0xB0000000#32 0xF0000000#32
  | .reservedOpC _ => InCmdRow (encode i) 0xC0000000#32 0xF0000000#32
  | .reservedOpD _ => InCmdRow (encode i) 0xD0000000#32 0xF0000000#32
  | .reservedOpE _ => InCmdRow (encode i) 0xE0000000#32 0xF0000000#32
  | .reservedOpF _ => InCmdRow (encode i) 0xF0000000#32 0xF0000000#32
  | .wireAddrShort _ => InWireRow (encode i) .address [(0x00#8, 0x80#8)]
  | .wireAddrLong _ => InWireRow (encode i) .address [(0xC0#8, 0xC0#8), (0x00#8, 0x00#8)]
  | .wireSpeed128 _ _ => InWireRow (encode i) .command [(0x3F#8, 0xFF#8), (0x00#8, 0x00#8)]
  | .wireSpeed28 _ _ _ => InWireRow (encode i) .command [(0x40#8, 0xC0#8)]
  | .wireFnGroup0 _ => InWireRow (encode i) .command [(0x80#8, 0xE0#8)]
  | .wireFnGroup1 _ => InWireRow (encode i) .command [(0xB0#8, 0xF0#8)]
  | .wireFnGroup2 _ => InWireRow (encode i) .command [(0xA0#8, 0xF0#8)]
  | .wireIdle => InWireRow (encode i) .whole [(0xFF#8, 0xFF#8), (0x00#8, 0xFF#8)]
  | .wireBroadcastEstop => InWireRow (encode i) .whole [(0x00#8, 0xFF#8), (0x01#8, 0xFF#8)]
  | .wirePacket bytes => ∃ words, encode i = .frame words ∧ words = Machine.packWords (Machine.frameBits
      (bytes ++ [Machine.checksum bytes]))
  | .pop => encode i = .pop

theorem create (a : BitVec 14) (l : Bool) (m : BitVec 2) : Statement (.create a l m) := ⟨_, rfl, create_row a l m⟩
theorem drive (h : BitVec 8) (d : Bool) (v : BitVec 8) : Statement (.drive h d v) := ⟨_, rfl, drive_row h d v⟩
theorem setFn (h : BitVec 8) (f : BitVec 5) (v : Bool) : Statement (.setFn h f v) := ⟨_, rfl, setFn_row h f v⟩
theorem getFn (h : BitVec 8) (f : BitVec 5) : Statement (.getFn h f) := ⟨_, rfl, getFn_row h f⟩
theorem beginCmd : Statement .beginCmd := ⟨_, rfl, by decide⟩
theorem deinit : Statement .deinit := ⟨_, rfl, by decide⟩
theorem loop : Statement .loop := ⟨_, rfl, by decide⟩
theorem estop : Statement .estop := ⟨_, rfl, by decide⟩
theorem powerOn : Statement .powerOn := ⟨_, rfl, by decide⟩
theorem powerOff : Statement .powerOff := ⟨_, rfl, by decide⟩
theorem reservedOp0 (a : BitVec 28) : Statement (.reservedOp0 a) := ⟨_, rfl, reserved_row 0x0#4 a⟩
theorem reservedOpB (a : BitVec 28) : Statement (.reservedOpB a) := ⟨_, rfl, reserved_row 0xB#4 a⟩
theorem reservedOpC (a : BitVec 28) : Statement (.reservedOpC a) := ⟨_, rfl, reserved_row 0xC#4 a⟩
theorem reservedOpD (a : BitVec 28) : Statement (.reservedOpD a) := ⟨_, rfl, reserved_row 0xD#4 a⟩
theorem reservedOpE (a : BitVec 28) : Statement (.reservedOpE a) := ⟨_, rfl, reserved_row 0xE#4 a⟩
theorem reservedOpF (a : BitVec 28) : Statement (.reservedOpF a) := ⟨_, rfl, reserved_row 0xF#4 a⟩
theorem wireAddrShort (a : BitVec 7) : Statement (.wireAddrShort a) :=
  ⟨_, rfl, .cons (shortAddrByte_top a) .nil⟩
theorem wireAddrLong (a : BitVec 14) : Statement (.wireAddrLong a) :=
  ⟨_, rfl, .cons (longAddrByte_top a) (.cons (by simp) .nil)⟩
theorem wireSpeed128 (d : Bool) (c : BitVec 7) : Statement (.wireSpeed128 d c) :=
  ⟨_, rfl, .cons (by decide) (.cons (by simp) .nil)⟩
theorem wireSpeed28 (d c : Bool) (f : BitVec 4) : Statement (.wireSpeed28 d c f) :=
  ⟨_, rfl, .cons (speed28Byte_top d c f) .nil⟩
theorem wireFnGroup0 (f : BitVec 5) : Statement (.wireFnGroup0 f) := ⟨_, rfl, .cons (fnGroup0Byte_top f) .nil⟩
theorem wireFnGroup1 (f : BitVec 4) : Statement (.wireFnGroup1 f) := ⟨_, rfl, .cons (fnGroup1Byte_top f) .nil⟩
theorem wireFnGroup2 (f : BitVec 4) : Statement (.wireFnGroup2 f) := ⟨_, rfl, .cons (fnGroup2Byte_top f) .nil⟩
theorem wireIdle : Statement .wireIdle := ⟨_, rfl, .cons (by decide) (.cons (by decide) .nil)⟩
theorem wireBroadcastEstop : Statement .wireBroadcastEstop := ⟨_, rfl, .cons (by decide) (.cons (by decide) .nil)⟩
theorem wirePacket (bytes : List Byte) : Statement (.wirePacket bytes) := ⟨_, rfl, rfl⟩
theorem pop : Statement .pop := rfl

end Sys2Proof.Laws.EncodingInItsRow
end

