-- ==== Sys2Proof/Laws/TrackBuffer.lean ====
section
/-! SUPPORT. What the framer, a rebuild, a tick and a LOOP can do, said once each. -/

namespace Sys2Proof.Machine

/-- The frame of m bytes is its preamble, 9 bits a byte and a stop bit long. -/
theorem frameBitsWith_length (p : Nat) (bs : List Byte) : (frameBitsWith p bs).length = p + 9 * bs.length + 1 := by
  have h : (bs.flatMap (fun b => false :: byteBits b)).length = 9 * bs.length := by
    induction bs with
    | nil => rfl
    | cons b bs ih => simp [byteBits] at ih ⊢; omega
  simp only [frameBitsWith, List.length_append, List.length_replicate, h, List.length_singleton]

/-- The frame's length is its minimal length and its padding (R194). -/
theorem frameBits_length (bs : List Byte) : (frameBits bs).length = minLen bs.length + padLen bs.length := by
  simp only [frameBits, frameBitsWith_length, minLen]; omega

/-- A packet of 2, 3 or 4 Instruction bytes is two words (R196). -/
theorem packetWords_length_two {bs : List Byte} (h2 : 2 ≤ bs.length) (h4 : bs.length ≤ 4) :
    (packetWords bs).length = 2 := by
  have hl : (bs ++ [checksum bs]).length = bs.length + 1 := by simp
  simp only [packetWords, packWords, List.length_map, List.length_range, frameBits_length, hl]
  interval_cases bs.length <;> rfl

theorem framed_ok {bs : List Byte} (h : legalLength bs.length = true) : framed bs = .ok (packetWords bs) := by
  simp [framed, framePacket, h]

theorem addressPrefix_length (v : Slot) : 1 ≤ (addressPrefix v).length ∧ (addressPrefix v).length ≤ 2 := by
  unfold addressPrefix; split <;> simp

theorem fnInstr_legal (v : Slot) (g : Group) : 2 ≤ (fnInstr v g).length ∧ (fnInstr v g).length ≤ 4 := by
  have h := addressPrefix_length v
  simp only [fnInstr, List.length_append, List.length_singleton]; omega

/-- Everything `speedInstr` can answer (R172): 2 to 4 bytes, or UnsupportedModeError for a mode that is
neither 128 nor 28 steps. -/
theorem speedInstr_cases (v : Slot) :
    (∃ bs, speedInstr v = .ok bs ∧ 2 ≤ bs.length ∧ bs.length ≤ 4 ∧ (v.mode = 0#2 ∨ v.mode = 1#2)) ∨
    (speedInstr v = .error .unsupportedMode ∧ v.mode ≠ 0#2 ∧ v.mode ≠ 1#2) := by
  have h := addressPrefix_length v
  unfold speedInstr
  by_cases h0 : v.mode = 0#2
  · refine .inl ⟨_, if_pos h0, ?_, ?_, .inl h0⟩ <;> (simp; try omega)
  · by_cases h1 : v.mode = 1#2
    · refine .inl ⟨addressPrefix v ++ [encode28 v.dir (speedValue v.speed)], by simp [h1], ?_, ?_, .inr h1⟩
      all_goals (simp; try omega)
    · exact .inr ⟨by simp [h0, h1, encode14], h0, h1⟩

theorem legal_of_le {n : Nat} (h2 : 2 ≤ n) (h4 : n ≤ 4) : legalLength n = true := by
  simp [legalLength, h2]; omega

/-- Everything the four packets of a slot can be (R221): eight words around four legal Instructions, or
UnsupportedModeError. -/
theorem slotWords_cases (v : Slot) :
    (∃ sp, speedInstr v = .ok sp ∧ (v.mode = 0#2 ∨ v.mode = 1#2) ∧ 2 ≤ sp.length ∧ sp.length ≤ 4 ∧
      slotWords v = .ok ([sp, fnInstr v .g0, fnInstr v .g1, fnInstr v .g2].flatMap packetWords)) ∨
    (slotWords v = .error .unsupportedMode ∧ v.mode ≠ 0#2 ∧ v.mode ≠ 1#2) := by
  rcases speedInstr_cases v with ⟨bs, hb, h2, h4, hm⟩ | ⟨he, h0, h1⟩
  · refine .inl ⟨bs, hb, hm, h2, h4, ?_⟩
    have hf := fun g => framed_ok (legal_of_le (fnInstr_legal v g).1 (fnInstr_legal v g).2)
    simp [slotWords, hb, framed_ok (legal_of_le h2 h4), hf]
  · exact .inr ⟨by simp [slotWords, he], h0, h1⟩

/-- Everything the words of a registry can be (R221, R222): whole packets, eight words a slot, or
UnsupportedModeError, exactly when some slot has no speed coding. -/
theorem registryWords_cases (vs : List Slot) :
    (∃ ps : List (List Byte), registryWords vs = .ok (ps.flatMap packetWords) ∧
      (∀ p ∈ ps, 2 ≤ p.length ∧ p.length ≤ 4) ∧ ps.length = 4 * vs.length ∧
      ∀ v ∈ vs, v.mode = 0#2 ∨ v.mode = 1#2) ∨
    (registryWords vs = .error .unsupportedMode ∧ ∃ v ∈ vs, v.mode ≠ 0#2 ∧ v.mode ≠ 1#2) := by
  induction vs with
  | nil => exact .inl ⟨[], rfl, by simp, rfl, by simp⟩
  | cons v vs ih =>
    rcases slotWords_cases v with ⟨sp, -, hm, h2, h4, hw⟩ | ⟨he, h0, h1⟩
    · rcases ih with ⟨ps, hp, hl, hn, hc⟩ | ⟨he, u, hu, h0⟩
      · refine .inl ⟨[sp, fnInstr v .g0, fnInstr v .g1, fnInstr v .g2] ++ ps, ?_, ?_, ?_, ?_⟩
        · simp [registryWords, hw, hp]
        · have hf := fnInstr_legal v
          intro p hp
          simp only [List.mem_append, List.mem_cons, List.not_mem_nil, or_false] at hp
          rcases hp with (rfl | rfl | rfl | rfl) | hp
          · exact ⟨h2, h4⟩
          · exact hf _
          · exact hf _
          · exact hf _
          · exact hl p hp
        · simp [hn]; omega
        · simpa [hm] using hc
      · exact .inr ⟨by simp [registryWords, hw, he], u, List.mem_cons_of_mem _ hu, h0⟩
    · exact .inr ⟨by simp [registryWords, he], v, List.mem_cons_self, h0, h1⟩

/-- Whole packets of two words each. -/
theorem flatMap_packetWords_length {ps : List (List Byte)} (h : ∀ p ∈ ps, 2 ≤ p.length ∧ p.length ≤ 4) :
    (ps.flatMap packetWords).length = 2 * ps.length := by
  induction ps with
  | nil => rfl
  | cons p ps ih =>
    have hp := h p List.mem_cons_self
    have := ih (fun q hq => h q (List.mem_cons_of_mem _ hq))
    simp only [List.flatMap_cons, List.length_append, List.length_cons, packetWords_length_two hp.1 hp.2, this]; omega

/-- The Idle sequence is the Idle packet (R198). -/
theorem idleSeq_eq : idleSeq = packetWords [0xFF#8, 0x00#8] := by decide +kernel

/-- The Emergency packet (R199). -/
theorem emergPkt_eq : emergPkt = packetWords [0x00#8, 0x01#8] := by decide +kernel

/-- Everything `rebuild` can answer (R221, R222, R303, R304): whole packets, 2 words or 8 a slot, or
UnsupportedModeError. -/
theorem rebuild_cases (s : State) :
    (∃ seq, rebuild s = .ok seq ∧ wholePackets seq ∧ seq.length = (if s.nLoco = 0 then 2 else 8 * s.nLoco) ∧
      ∀ v ∈ s.slots, v.mode = 0#2 ∨ v.mode = 1#2) ∨
    (rebuild s = .error .unsupportedMode ∧ s.nLoco ≠ 0 ∧ ∃ v ∈ s.slots, v.mode ≠ 0#2 ∧ v.mode ≠ 1#2) := by
  unfold rebuild
  by_cases h : s.nLoco = 0
  · refine .inl ⟨idleSeq, by simp [h], ⟨[[0xFF#8, 0x00#8]], by simp [legalLength], by simp [idleSeq_eq]⟩, by simp [h, idleSeq], ?_⟩
    have : s.slots = [] := List.length_eq_zero_iff.mp h
    simp [this]
  · rcases registryWords_cases s.slots with ⟨ps, hp, hl, hn, hc⟩ | ⟨he, hv⟩
    · refine .inl ⟨_, by simp [h, hp], ⟨ps, fun p hm => legal_of_le (hl p hm).1 (hl p hm).2, rfl⟩, ?_, hc⟩
      rw [flatMap_packetWords_length hl, hn, if_neg h]
      show 2 * (4 * s.nLoco) = 8 * s.nLoco
      omega
    · exact .inr ⟨by simp [h, he], h, hv⟩

/-- A rebuild depends on the registry alone. -/
theorem rebuild_congr {s t : State} (h : s.slots = t.slots) : rebuild s = rebuild t := by
  simp [rebuild, State.nLoco, h]

/-- The Emergency sequence fits every bank (R7, R29). -/
theorem emergSeq_fits (c : Config) : emergSeq.length ≤ c.bankWords := by
  simp [emergSeq, emergPkt, emergRepeat, Config.bankWords]

/-- The Emergency sequence is whole packets. -/
theorem emergSeq_whole : wholePackets emergSeq :=
  ⟨List.replicate 5 [0x00#8, 0x01#8], by simp [legalLength], by simp [emergSeq, emergPkt_eq, List.replicate]⟩

/-- Everything a tick can do (R223, R228): the Emergency sequence, a rebuilt sequence, a raise of the rebuild, nothing. -/
theorem tick_cases {s t : State} (h : tick s = .next t) :
    (s.estop = true ∧ t = ok (clearEstop (commit emergSeq s))) ∨
    (s.estop = false ∧ s.anyDirty = true ∧ ∃ seq, rebuild s = .ok seq ∧ seq.length ≤ s.cfg.bankWords ∧
      t = ok (clearDirty (commit seq s))) ∨
    (s.estop = false ∧ s.anyDirty = true ∧ rebuild s = .error .unsupportedMode ∧ t = raise .unsupportedMode s) ∨
    (s.estop = false ∧ s.anyDirty = false ∧ t = ok s) := by
  unfold tick at h
  by_cases he : s.estop = true
  · simp only [he, if_true, handoff, emergSeq_fits] at h
    injection h with h
    exact .inl ⟨he, h.symm⟩
  · rw [if_neg he] at h
    rw [Bool.not_eq_true] at he
    by_cases hd : s.anyDirty = true
    · rw [if_pos hd] at h
      rcases rebuild_cases s with ⟨seq, hr, -, -, -⟩ | ⟨hr, -, -⟩
      · simp only [hr, handoff] at h
        by_cases hl : seq.length ≤ s.cfg.bankWords
        · simp only [hl, if_true] at h
          injection h with h
          exact .inr (.inl ⟨he, hd, seq, hr, hl, h.symm⟩)
        · simp [hl] at h
      · simp only [hr] at h
        injection h with h
        exact .inr (.inr (.inl ⟨he, hd, hr, h.symm⟩))
    · rw [if_neg hd] at h
      rw [Bool.not_eq_true] at hd
      injection h with h
      exact .inr (.inr (.inr ⟨he, hd, h.symm⟩))

/-- A tick answers a next state whenever the registry fits (R222). -/
theorem tick_next {s : State} (h : s.nLoco ≤ s.cfg.nLoco) : ∃ t, tick s = .next t := by
  unfold tick
  split
  · simp [handoff, emergSeq_fits]
  · split
    · rcases rebuild_cases s with ⟨seq, hr, -, hl, -⟩ | ⟨hr, -, -⟩
      · have : seq.length ≤ s.cfg.bankWords := by
          rw [hl]; unfold Config.bankWords; split <;> omega
        simp [hr, handoff, this]
      · simp [hr]
    · simp

end Sys2Proof.Machine
end

