-- ==== Sys2Proof/Laws/PowerLoop.lean ====
section
/-! SUPPORT. What the check, the power commands and LOOP can do, said once each. -/

namespace Sys2Proof.Machine

/-- The state after a check at time `t`, whether or not it faults (R253). -/
abbrev checkedAt (t : BitVec 32) (s : State) : State := setLastCheck t (sample s)

/-- Everything POWER_ON and BEGIN do (R270): the check passes, or OvercurrentFault is raised and latched. -/
theorem powerUp_cases (s : State) :
    ((energise (takeTime s)).sampleMa ≤ 1000 ∧
      powerUp s = ok (checkedAt s.env.timeNow (energise (takeTime s)))) ∨
    (1000 < (energise (takeTime s)).sampleMa ∧
      powerUp s = raise .overcurrent (setOcLatch (checkedAt s.env.timeNow (energise (takeTime s))))) := by
  unfold powerUp checkShort
  by_cases h : (energise (takeTime s)).sampleMa > threshMa
  · exact .inr ⟨h, by rw [if_pos h]; rfl⟩
  · exact .inl ⟨not_lt.mp h, by rw [if_neg h]; rfl⟩

/-- The state in which a LOOP does its tests: the hold is over and the time is read (R275). -/
abbrev loopStart (s : State) : State := takeTime (release s)

/-- Everything a LOOP can do (R226, R275, R312). -/
theorem execLoop_cases {s t : State} (h : execLoop s = .next t) :
    (s.holdCond = true ∧ t = hold s) ∨
    (s.holdCond = false ∧
      ((s.power = false ∧ t = raise .powerOff (loopStart s)) ∨
       (s.power = true ∧ s.ocLatch = true ∧ t = raise .overcurrent (loopStart s)) ∨
       (s.power = true ∧ s.ocLatch = false ∧ checkDue s.env.timeNow s = true ∧
          1000 < (loopStart s).sampleMa ∧
          t = raise .overcurrent (setOcLatch (checkedAt s.env.timeNow (loopStart s)))) ∨
       (s.power = true ∧ s.ocLatch = false ∧ checkDue s.env.timeNow s = true ∧
          (loopStart s).sampleMa ≤ 1000 ∧ tick (checkedAt s.env.timeNow (loopStart s)) = .next t) ∨
       (s.power = true ∧ s.ocLatch = false ∧ checkDue s.env.timeNow s = false ∧
          tick (loopStart s) = .next t))) := by
  unfold execLoop at h
  by_cases hh : s.holdCond = true
  · rw [if_pos hh] at h
    injection h with h
    exact .inl ⟨hh, h.symm⟩
  · rw [if_neg hh] at h
    rw [Bool.not_eq_true] at hh
    refine .inr ⟨hh, ?_⟩
    unfold loopBody loopAt at h
    by_cases hp : s.power = false
    · rw [if_pos (show (takeTime (release s)).power = false from hp)] at h
      injection h with h
      exact .inl ⟨hp, h.symm⟩
    · rw [if_neg (show ¬ (takeTime (release s)).power = false from hp)] at h
      rw [Bool.not_eq_false] at hp
      by_cases hl : s.ocLatch = true
      · rw [if_pos (show (takeTime (release s)).ocLatch = true from hl)] at h
        injection h with h
        exact .inr (.inl ⟨hp, hl, h.symm⟩)
      · rw [if_neg (show ¬ (takeTime (release s)).ocLatch = true from hl)] at h
        rw [Bool.not_eq_true] at hl
        by_cases hd : checkDue s.env.timeNow s = true
        · rw [if_pos (show checkDue (release s).env.timeNow (takeTime (release s)) = true from hd)] at h
          unfold checkShort at h
          by_cases hm : (takeTime (release s)).sampleMa > threshMa
          · simp only [hm, if_true] at h
            injection h with h
            exact .inr (.inr (.inl ⟨hp, hl, hd, hm, h.symm⟩))
          · simp only [hm, if_false] at h
            exact .inr (.inr (.inr (.inl ⟨hp, hl, hd, not_lt.mp hm, h⟩)))
        · rw [if_neg (show ¬ checkDue (release s).env.timeNow (takeTime (release s)) = true from hd)] at h
          rw [Bool.not_eq_true] at hd
          exact .inr (.inr (.inr (.inr ⟨hp, hl, hd, h⟩)))

end Sys2Proof.Machine
end

