-- ==== Sys2Proof/Laws/Step.lean ====
section
/-! SUPPORT. What a step can do, said once. -/

namespace Sys2Proof.Machine

/-- The input that goes past waiting command words is the first that is no command word; everything else stays, in its
order. -/
theorem takeOther_spec {l rest : List Input} {i : Input} (h : takeOther l = some (i, rest)) :
    isCmdInput i = false ∧ rest.filter isCmdInput = l.filter isCmdInput ∧
      l.filter (!isCmdInput ·) = i :: rest.filter (!isCmdInput ·) := by
  induction l generalizing rest with
  | nil => cases h
  | cons n l ih =>
    cases n with
    | cmd w =>
      simp only [takeOther] at h
      split at h
      · cases h
      · rename_i j r hj
        simp only [Option.some.injEq, Prod.mk.injEq] at h
        obtain ⟨rfl, rfl⟩ := h
        obtain ⟨h1, h2, h3⟩ := ih hj
        refine ⟨h1, ?_, ?_⟩
        · rw [List.filter_cons_of_pos (by rfl), List.filter_cons_of_pos (by rfl), h2]
        · rw [List.filter_cons_of_neg (by simp [isCmdInput]), h3, List.filter_cons_of_neg (by simp [isCmdInput])]
    | _ =>
      simp only [takeOther, Option.some.injEq, Prod.mk.injEq] at h
      obtain ⟨rfl, rfl⟩ := h
      exact ⟨rfl, (List.filter_cons_of_neg Bool.false_ne_true).symm, List.filter_cons_of_pos rfl⟩

/-- Nothing goes past the command words exactly when nothing else is offered. -/
theorem filter_of_takeOther_none {l : List Input} (h : takeOther l = none) : l.filter (!isCmdInput ·) = [] := by
  induction l with
  | nil => rfl
  | cons n l ih =>
    cases n with
    | cmd w =>
      rw [List.filter_cons_of_neg (by simp [isCmdInput])]
      apply ih
      simp only [takeOther] at h
      split at h
      · assumption
      · cases h
    | _ => cases h

/-- Everything a step with `rst` 1 does (R340): the reset values; the oldest input that is no command word is used up,
and `rst` falls exactly when that is its falling level. -/
theorem step_in_reset {s : State} (h : s.env.rst = true) :
    ∃ e : Env, step s = .next { s.blockReset with env := e } ∧
      e.inputs.filter isCmdInput = s.env.inputs.filter isCmdInput ∧
      e.inputs.filter (!isCmdInput ·) = (s.env.inputs.filter (!isCmdInput ·)).tail ∧
      e.adc = s.env.adc ∧ e.adcFree = s.env.adcFree ∧ e.time = s.env.time ∧ e.timeFree = s.env.timeFree ∧
      (e.rst = false ↔ (s.env.inputs.filter (!isCmdInput ·)).head? = some (.rst false)) := by
  unfold step fetch
  rw [if_pos h]
  unfold fetchInReset
  cases ht : takeOther s.env.inputs with
  | none =>
    have hf := filter_of_takeOther_none ht
    exact ⟨s.env, rfl, rfl, by rw [hf]; rfl, rfl, rfl, rfl, rfl, by rw [hf, h]; simp⟩
  | some p =>
    obtain ⟨i, rest⟩ := p
    obtain ⟨-, hs, hf⟩ := takeOther_spec ht
    rw [hf]
    cases i with
    | rst lvl =>
      cases lvl
      · exact ⟨{ s.env with inputs := rest, rst := false }, rfl, hs, rfl, rfl, rfl, rfl, rfl, by simp⟩
      · exact ⟨{ s.env with inputs := rest, rst := true }, rfl, hs, rfl, rfl, rfl, rfl, rfl, by simp⟩
    | _ => exact ⟨{ s.env with inputs := rest }, rfl, hs, rfl, rfl, rfl, rfl, rfl, by simp [h]⟩

/-- Everything a step can do: it stays in reset, takes a level of `rst`, idles, refuses a command word that is none, runs
a held LOOP whose hold has lifted, or runs the well-formed instruction it decodes. -/
theorem step_cases {s t : State} (h : step s = .next t) :
    (s.env.rst = true ∧ ∃ e, t = { s.blockReset with env := e }) ∨
    (s.env.rst = false ∧
      (t = s ∨
       (∃ lvl rest, t = setRst lvl (setInputs rest s)) ∨
       (s.port.held = false ∧ ∃ rest, t = refuse (setInputs rest s)) ∨
       (s.port.held = true ∧ s.holdCond = false ∧ exec .loop s = .next t) ∨
       (∃ n rest i, decode n = .ok i ∧ i.wf = true ∧ (s.port.held = true → isCmdInput n = false) ∧
          exec i (setInputs rest s) = .next t))) := by
  by_cases hr : s.env.rst = true
  · obtain ⟨e, he, -⟩ := step_in_reset hr
    rw [he] at h
    injection h with h
    exact .inl ⟨hr, e, h.symm⟩
  · refine .inr ⟨Bool.not_eq_true _ ▸ hr, ?_⟩
    have run : ∀ n rest, (s.port.held = true → isCmdInput n = false) →
        (match runInput n (setInputs rest s) with
          | .run i s1 => exec i s1 | .settled s1 => .next s1 | .stop r => .refused r) = .next t →
        (∃ lvl rest, t = setRst lvl (setInputs rest s)) ∨
        (s.port.held = false ∧ ∃ rest, t = refuse (setInputs rest s)) ∨
        (∃ n rest i, decode n = .ok i ∧ i.wf = true ∧ (s.port.held = true → isCmdInput n = false) ∧
          exec i (setInputs rest s) = .next t) := by
      intro n rest hn h
      cases n with
      | rst lvl =>
        simp only [runInput] at h
        injection h with h
        exact .inl ⟨lvl, rest, h.symm⟩
      | cmd w =>
        simp only [runInput] at h
        cases hd : decode (.cmd w) with
        | ok i => rw [hd] at h; exact .inr (.inr ⟨.cmd w, rest, i, hd, wf_of_decode hd, hn, h⟩)
        | error e =>
          rw [hd] at h
          injection h with h
          refine .inr (.inl ⟨?_, rest, h.symm⟩)
          cases hh : s.port.held with
          | false => rfl
          | true => exact absurd (hn hh) (by simp [isCmdInput])
      | _ =>
        simp only [runInput] at h
        split at h <;> rename_i hd
        · split at hd <;> rename_i hd'
          · injection hd with h1 h2
            subst h1 h2
            exact .inr (.inr ⟨_, rest, _, hd', wf_of_decode hd', hn, h⟩)
          · simp at hd
        · split at hd <;> simp at hd
        · simp at h
    unfold step fetch at h
    rw [if_neg hr] at h
    by_cases hh : s.port.held = true
    · rw [if_pos hh] at h
      by_cases hc : s.holdCond = true
      · rw [if_pos hc] at h
        cases ht : takeOther s.env.inputs with
        | none =>
          simp only [ht] at h
          injection h with h
          exact .inl h.symm
        | some p =>
          simp only [ht] at h
          rcases run p.1 p.2 (fun _ => (takeOther_spec ht).1) h with h | h | h
          · exact .inr (.inl h)
          · exact .inr (.inr (.inl h))
          · exact .inr (.inr (.inr (.inr h)))
      · rw [if_neg hc] at h
        exact .inr (.inr (.inr (.inl ⟨hh, Bool.not_eq_true _ ▸ hc, h⟩)))
    · rw [if_neg hh] at h
      cases hi : s.env.inputs with
      | nil =>
        simp only [hi] at h
        injection h with h
        exact .inl h.symm
      | cons n rest =>
        simp only [hi] at h
        rcases run n rest (fun h' => absurd h' hh) h with h | h | h
        · exact .inr (.inl h)
        · exact .inr (.inr (.inl h))
        · exact .inr (.inr (.inr (.inr h)))

/-- The rows that an emission decodes to. -/
def isEmission : Instr → Bool
  | .wireAddrShort _ | .wireAddrLong _ | .wireSpeed128 _ _ | .wireSpeed28 _ _ _ | .wireFnGroup0 _
  | .wireFnGroup1 _ | .wireFnGroup2 _ | .wireIdle | .wireBroadcastEstop | .wirePacket _ => true
  | _ => false

/-- A well-formed emission touches the packet encoder's fields alone (log 10). -/
theorem emission_frame {i : Instr} {s t : State} (hi : isEmission i = true) (hw : i.wf = true)
    (h : exec i s = .next t) : ∃ e, t = { s with enc := e } := by
  cases i
  case wirePacket bytes =>
    have hf : framePacket bytes = some (packetWords bytes) := if_pos hw
    simp only [exec, execWirePacket, hf] at h
    injection h with h
    exact ⟨_, h.symm⟩
  all_goals first
    | (cases hi; done)
    | (injection h with h; exact ⟨_, h.symm⟩)

/-- What is no command word and no level of `rst` decodes to a pop or to an emission. -/
theorem decode_other {n : Input} {i : Instr} (hn : isCmdInput n = false) (h : decode n = .ok i) :
    i = .pop ∨ isEmission i = true := by
  cases n with
  | cmd w => cases hn
  | rst b => cases h
  | pop => injection h with h; exact .inl h.symm
  | frame ws =>
    simp only [decode, decodeFrame] at h
    split at h
    · injection h with h; subst h; exact .inr rfl
    · cases h
  | wire p bs =>
    right
    cases p
    · replace h : decodeAddress bs = .ok i := h
      unfold decodeAddress at h
      split at h <;> (try split_ifs at h) <;> first | (cases h; done) | (cases h; rfl)
    · replace h : decodeCommand bs = .ok i := h
      unfold decodeCommand at h
      split at h <;> (try split_ifs at h) <;> first | (cases h; done) | (cases h; rfl)
    · replace h : decodeWhole bs = .ok i := h
      unfold decodeWhole at h
      split_ifs at h <;> first | (cases h; done) | (cases h; rfl)

end Sys2Proof.Machine
end

