-- ==== Sys2Proof/Laws/Run.lean ====
section
/-! SUPPORT. What a step under the hold of LOOP can do, and the induction over runs, said once each. -/

namespace Sys2Proof.Machine

/-- Everything a step while a LOOP is held can do (R226): it idles, a level of `rst` comes, the consumer pops, or the
packet encoder emits. -/
theorem step_while_held {s t : State} (hr : s.env.rst = false) (hh : s.port.held = true) (hc : s.holdCond = true)
    (h : step s = .next t) :
    (¬ s.takesPop ∧ t = s) ∨
    (¬ s.takesPop ∧ ∃ lvl rest, t = setRst lvl (setInputs rest s)) ∨
    (s.takesPop ∧ ∃ rest, execPop (setInputs rest s) = .next t) ∨
    (¬ s.takesPop ∧ ∃ rest e, t = { setInputs rest s with enc := e }) := by
  unfold step at h
  unfold State.takesPop
  cases ht : takeOther s.env.inputs with
  | none =>
    have hf : fetch s = .settled s := by
      unfold fetch
      simp only [hr, hh, hc, ht, if_true, Bool.false_eq_true, if_false]
    rw [hf] at h ⊢
    injection h with h
    exact .inl ⟨by simp, h.symm⟩
  | some p =>
    obtain ⟨n, rest⟩ := p
    have hn := (takeOther_spec ht).1
    have hf : fetch s = runInput n (setInputs rest s) := by
      unfold fetch
      simp only [hr, hh, hc, ht, if_true, Bool.false_eq_true, if_false]
    rw [hf] at h ⊢
    cases hd : decode n with
    | ok i =>
      have hrun : runInput n (setInputs rest s) = .run i (setInputs rest s) := by
        cases n with
        | cmd w => cases hn
        | rst b => cases hd
        | _ => simp only [runInput, hd]
      simp only [hrun] at h ⊢
      rcases decode_other hn hd with rfl | he
      · exact .inr (.inr (.inl ⟨⟨_, rfl⟩, rest, h⟩))
      · obtain ⟨e, rfl⟩ := emission_frame he (wf_of_decode hd) h
        refine .inr (.inr (.inr ⟨?_, rest, e, rfl⟩))
        rintro ⟨s1, hs⟩
        injection hs with hs
        subst hs
        cases he
    | error err =>
      cases n with
      | cmd w => cases hn
      | rst lvl =>
        simp only [runInput] at h ⊢
        injection h with h
        exact .inr (.inl ⟨by simp, lvl, rest, h.symm⟩)
      | _ => simp only [runInput, hd] at h; cases h

/-- What steps and offers keep holds along a run from where it holds. -/
theorem isRun_keeps {σ : Nat → State} {P : State → Prop} (hσ : isRun σ)
    (hstep : ∀ s t, P s → step s = .next t → P t) (hoffer : ∀ s l a m, P s → P (offer l a m s)) {n : Nat}
    (hn : P (σ n)) : ∀ m, n ≤ m → P (σ m) := by
  intro m hm
  induction m, hm using Nat.le_induction with
  | base => exact hn
  | succ m _ ih =>
    obtain ⟨t, l, a, b, hs, he⟩ := hσ m
    rw [he]
    exact hoffer t l a b (hstep (σ m) t ih hs)

end Sys2Proof.Machine
end

