-- ==== Sys2Proof/Tests/Slice0.lean ====
section
/-! SUPPORT. The author's tests: well-formedness, decoding of words written out from the spec, small steps against
95_test_vectors.md, and one witness for the hypotheses of each statement. -/

namespace Sys2Proof.Tests

open Sys2Proof Sys2Proof.Machine

/-! ### Well-formedness (R7, R190) -/

theorem test_wf_refuses_short_packet : (Instr.wirePacket [0x03#8]).wf = false := by decide
theorem test_wf_refuses_empty_packet : (Instr.wirePacket []).wf = false := by decide
theorem test_wf_refuses_long_packet : (Instr.wirePacket [1#8, 2#8, 3#8, 4#8, 5#8, 6#8]).wf = false := by decide
theorem test_wf_takes_bounds : (Instr.wirePacket [1#8, 2#8]).wf = true ∧ (Instr.wirePacket [1#8, 2#8, 3#8, 4#8, 5#8]).wf = true := by
  decide

/-! ### Decoding: command words of 95_test_vectors.md 2.8, reserved opcodes of R99 -/

theorem test_decode_create : decode (.cmd 0x1000C4D2#32) = .ok (.create 1234#14 true 1#2) := by decide
theorem test_decode_drive : decode (.cmd 0x2FF0017F#32) = .ok (.drive 255#8 true 127#8) := by decide
theorem test_decode_setFn : decode (.cmd 0x3010010D#32) = .ok (.setFn 1#8 13#5 true) := by decide
theorem test_decode_getFn : decode (.cmd 0x40100007#32) = .ok (.getFn 1#8 7#5) := by decide
theorem test_decode_begin : decode (.cmd 0x50000000#32) = .ok .beginCmd := by decide
theorem test_decode_deinit : decode (.cmd 0x60000000#32) = .ok .deinit := by decide
theorem test_decode_loop : decode (.cmd 0x70000000#32) = .ok .loop := by decide
theorem test_decode_estop : decode (.cmd 0x80000000#32) = .ok .estop := by decide
theorem test_decode_powerOn : decode (.cmd 0x90000000#32) = .ok .powerOn := by decide
theorem test_decode_powerOff : decode (.cmd 0xA0000000#32) = .ok .powerOff := by decide
theorem test_decode_reserved0 : decode (.cmd 0x00000000#32) = .ok (.reservedOp0 0#28) := by decide
theorem test_decode_reservedB : decode (.cmd 0xB0000001#32) = .ok (.reservedOpB 1#28) := by decide
theorem test_decode_reservedC : decode (.cmd 0xC0000000#32) = .ok (.reservedOpC 0#28) := by decide
theorem test_decode_reservedD : decode (.cmd 0xD0000000#32) = .ok (.reservedOpD 0#28) := by decide
theorem test_decode_reservedE : decode (.cmd 0xE0000000#32) = .ok (.reservedOpE 0#28) := by decide
theorem test_decode_reservedF : decode (.cmd 0xF0000000#32) = .ok (.reservedOpF 0#28) := by decide
theorem test_decode_stray : decode (.cmd 0x70000001#32) = .error .strayBits := by decide

/-! ### Decoding: wire bytes of 95_test_vectors.md 2.1 to 2.4, by the patterns of R103 to R108 -/

theorem test_decode_addrShort : decode (.wire .address [0x7F#8]) = .ok (.wireAddrShort 127#7) := by decide
theorem test_decode_addrLong : decode (.wire .address [0xC4#8, 0xD2#8]) = .ok (.wireAddrLong 1234#14) := by decide
theorem test_decode_speed128 : decode (.wire .command [0x3F#8, 0xB4#8]) = .ok (.wireSpeed128 true 52#7) := by decide
theorem test_decode_speed28 : decode (.wire .command [0x78#8]) = .ok (.wireSpeed28 true true 8#4) := by decide
theorem test_decode_fnGroup0 : decode (.wire .command [0x90#8]) = .ok (.wireFnGroup0 0x10#5) := by decide
theorem test_decode_fnGroup1 : decode (.wire .command [0xB4#8]) = .ok (.wireFnGroup1 4#4) := by decide
theorem test_decode_fnGroup2 : decode (.wire .command [0xA8#8]) = .ok (.wireFnGroup2 8#4) := by decide
theorem test_decode_idle : decode (.wire .whole [0xFF#8, 0x00#8]) = .ok .wireIdle := by decide
theorem test_decode_broadcastEstop : decode (.wire .whole [0x00#8, 0x01#8]) = .ok .wireBroadcastEstop := by decide
theorem test_decode_packet :
    decode (.frame [0xFFFFFFE0#32, 0x31FAD111#32]) = .ok (.wirePacket [0x03#8, 0x3F#8, 0xB4#8]) := by decide +kernel
theorem test_decode_pop : decode .pop = .ok .pop := by decide
theorem test_decode_badChecksum : decode (.frame [0xFFFFFFE0#32, 0x31FAD113#32]) = .error .noFrame := by decide +kernel

/-! ### The host's two readings of a row -/

theorem test_table_create : decodeTableWord 32 0x10000003 = some (.create 3#14 false 0#2) := by decide
theorem test_table_addrLong : decodeTableWord 16 0xC000 = some (.wireAddrLong 0#14) := by decide
theorem test_table_pop : decodeTableWord 0 0 = some .pop := by decide
theorem test_fetchWord_estop :
    step (State.reset.withFetchWord 32 0x80000000) = exec .estop State.reset := rfl

/-! ### States -/

/-- Slot 0 of program P1 (95_test_vectors.md): short address 3, 128 steps, direction 1, speed 50. -/
def loco3 : Slot := ⟨3#14, false, 0#2, true, 50#8, 0x80#8, 0xB0#8, 0xA0#8, true⟩

/-- Slot 1 of program P2: long address 1234, 28 steps. -/
def loco1234 : Slot := ⟨1234#14, true, 1#2, false, 10#8, 0x90#8, 0xB4#8, 0xA0#8, false⟩

/-- A slot of 14 steps (R303). -/
def loco14 : Slot := { loco3 with mode := 2#2 }

/-- The two slots, powered off, with an N_LOCO of 3. -/
def idle2 : State := { State.reset with cfg := ⟨3, 12, 1, 1, 0, 17⟩, slots := [loco3, loco1234] }

/-- The two slots, PoweredOn, checked at 1000 ms. -/
def on2 : State :=
  { idle2 with power := true, lines := linesOn, mon := { idle2.mon with lastCheckMs := 1000#32 } }

/-- The same, with a hand-off pending. -/
def pending2 : State := { on2 with tx := on2.tx.handoff emergSeq }

/-- The same, with a LOOP held. -/
def held2 : State := { pending2 with port := ⟨true, false, 0#16⟩ }

/-- Given the inputs. -/
def given (l : List Input) (s : State) : State := { s with env := { s.env with inputs := l } }

/-- Given the time of the next read. -/
def at' (t : Nat) (s : State) : State := { s with env := { s.env with time := [BitVec.ofNat 32 t] } }

/-- Given 200 equal ADC readings. -/
def sensing (c : Nat) (s : State) : State :=
  { s with env := { s.env with adc := List.replicate 200 (BitVec.ofNat 16 c) } }

/-- A value of the next state. -/
def after {α : Type} (o : Host.Outcome State Fault Refusal) (f : State → α) : Option α :=
  match o with
  | .next t => some (f t)
  | _ => none

/-! ### One step of each instruction, against 95_test_vectors.md -/

theorem test_create : after (exec (.create 3#14 false 0#2) State.reset) (fun t => (t.port.rsp, t.slots)) =
    some (0x0000#16, [⟨3#14, false, 0#2, false, 0#8, 0x80#8, 0xB0#8, 0xA0#8, true⟩]) := by decide
theorem test_create_refuses_128 : after (exec (.create 128#14 false 1#2) idle2) (fun t => (t.port.rsp, t.slots)) =
    some (0x000F#16, idle2.slots) := by decide
theorem test_drive : after (exec (.drive 1#8 true 28#8) idle2) (fun t => (t.port.rsp, (t.slots[1]?).map (·.speed))) =
    some (0x0000#16, some 28#8) := by decide
theorem test_drive_refuses : after (exec (.drive 2#8 true 28#8) idle2) (fun t => t.port.rsp) = some 0x000F#16 := by decide
theorem test_setFn_7 : after (exec (.setFn 0#8 7#5 true) idle2) (fun t => (t.slots[0]?).map (fun v => (v.fg0, v.fg1, v.fg2))) =
    some (some (0x80#8, 0xB4#8, 0xA0#8)) := by decide
theorem test_setFn_13 : after (exec (.setFn 0#8 13#5 true) idle2) (fun t => (t.port.rsp, t.slots)) =
    some (0x0000#16, idle2.slots) := by decide
theorem test_getFn_7 : after (exec (.getFn 1#8 7#5) idle2) (fun t => t.port.rsp) = some 0x0100#16 := by decide
theorem test_getFn_4 : after (exec (.getFn 1#8 4#5) idle2) (fun t => t.port.rsp) = some 0x0000#16 := by decide
theorem test_powerOn : after (exec .powerOn (at' 1000 (sensing 12 State.reset)))
    (fun t => (t.port.rsp, t.power, t.lines, t.mon)) =
    some (0x0000#16, true, ⟨false, true, true⟩, ⟨786427, 786427, 12, 1000#32⟩) := by decide +kernel
theorem test_powerOn_overcurrent : after (exec .powerOn (at' 7 (sensing 1200 State.reset)))
    (fun t => (t.port.rsp, t.power, t.ocLatch, t.fault, t.mon.lastMa)) =
    some (0x0001#16, true, true, 0b0001#4, 1200) := by decide +kernel
theorem test_begin : after (exec .beginCmd (at' 1000 (sensing 12 State.reset))) (fun t => (t.port.rsp, t.power)) =
    some (0x0000#16, true) := by decide +kernel
theorem test_powerOff : after (exec .powerOff { on2 with estop := true, ocLatch := true, fault := 1#4 })
    (fun t => (t.power, t.lines, t.estop, t.ocLatch, t.fault)) = some (false, linesOff, false, false, 1#4) := by decide
theorem test_deinit : after (exec .deinit on2) (fun t => (t.port.rsp, t.nLoco, t.regDirty, t.lines)) =
    some (0x0000#16, 0, true, linesOff) := by decide
theorem test_estop : after (exec .estop idle2) (fun t => (t.port.rsp, t.estop)) = some (0x0000#16, true) := by decide
theorem test_loop_off : after (exec .loop idle2) (fun t => (t.port.rsp, t.fault)) = some (0x0002#16, 0b0010#4) := by decide
theorem test_loop_rebuild : after (exec .loop (at' 1010 { on2 with slots := [loco3] }))
    (fun t => (t.port.rsp, t.tx.bank1.len, (List.range 8).map t.tx.bank1.w.read)) =
    some (0x0000#16, 8, [0xFFFFFFE0#32, 0x31FAD111#32, 0xFFFFFFFF#32, 0xF01A0107#32, 0xFFFFFFFF#32, 0xF01AC167#32,
      0xFFFFFFFF#32, 0xF01A8147#32].map some) := by decide +kernel
theorem test_reservedB : after (exec (.reservedOpB 5#28) on2) (fun t => (t.port.rsp, t.fault)) =
    some (0x000F#16, 0#4) := by decide
theorem test_wireSpeed128 : after (exec (.wireSpeed128 true 52#7) { on2 with enc := ⟨[3#8], []⟩ }) (fun t => t.enc.instr) =
    some [0x03#8, 0x3F#8, 0xB4#8] := by decide
theorem test_wirePacket : after (exec (.wirePacket [0xC0#8, 0x07#8, 0x40#8]) on2) (fun t => t.enc.seq) =
    some [0xFFFFFFEC#32, 0x0039010F#32] := by decide +kernel
theorem test_wireIdle : after (exec .wireIdle on2) (fun t => t.enc.seq) = some [0xFFFFFFFF#32, 0xF7F801FF#32] := by decide
theorem test_wireBroadcastEstop : after (exec .wireBroadcastEstop on2) (fun t => t.enc.seq) =
    some [0xFFFFFFFF#32, 0xF0000403#32] := by decide
theorem test_pop : after (exec .pop State.reset) (fun t => (t.obs.popped, t.tx.rd)) = some ([0xFFFFFFFF#32], 1) := by decide
theorem test_pop_switches : after (exec .pop { pending2 with tx := { pending2.tx with rd := 1 } })
    (fun t => (t.obs.popped, t.tx.rd, t.tx.active, t.tx.pending)) = some ([0xF7F801FF#32], 0, true, false) := by
  decide +kernel

/-! ### The coders (95_test_vectors.md 2.1) -/

theorem test_encode128 : encode128 true 50 = 0xB4#8 ∧ encode128 false (-5) = 0x01#8 ∧ encode128 true 127 = 0xFE#8 := by decide
theorem test_encode28 : encode28 true 14 = 0x78#8 ∧ encode28 false 29 = 0x5F#8 ∧ encode28 true (-2) = 0x60#8 := by decide
theorem test_fiveBytes : packetWords [1#8, 2#8, 3#8, 4#8, 5#8] = [0xFFFFFFFF#32, 0xFF804040#32, 0x30201403#32] := by
  decide +kernel

/-! ### Witnesses: for each statement with hypotheses, and each of its clauses, operands and a state that meet them -/

theorem test_witness_validConfigs : (Config.mk 1 1 1 1 0 17).valid = true ∧ (Config.mk 256 16 3 2 20 18).valid = true := by decide

/-- R343's last clause at its edges: 65535 fits 17 bits, 65536 does not; 16 bits are too few (R31). -/
theorem test_validConfigs_width : (Config.mk 16 16 1 1 0 17).valid = true ∧ (Config.mk 16 15 3 1 32765 17).valid = false ∧
    (Config.mk 16 15 3 1 32766 17).valid = true ∧ (Config.mk 16 12 1 1 0 16).valid = false := by decide

theorem test_witness_rstInput : let s := given [.rst true, .pop] held2
    s.env.rst = false ∧ (s.port.held = true → s.holdCond = true) ∧ s.env.inputs = .rst true :: [.pop] := by decide

theorem test_witness_underRst : let s : State :=
      { on2 with env := { on2.env with rst := true, inputs := [.cmd 0x70000000#32, .rst false, .pop] } }
    s.env.rst = true ∧ (s.env.inputs.filter (!isCmdInput ·)).head? = some (.rst false) ∧
      after (step s) (fun t => (t.env.rst, t.env.inputs)) = some (false, [.cmd 0x70000000#32, .pop]) := by decide

/-- The level stays while something else is taken. -/
theorem test_witness_underRst_stays : let s : State := { on2 with env := { on2.env with rst := true, inputs := [.pop] } }
    s.env.rst = true ∧ after (step s) (fun t => (t.env.rst, t.obs.popped)) = some (true, []) := by decide

theorem test_witness_wellFormed : (Instr.wirePacket [3#8, 0x80#8]).wf = true ∧ (Instr.drive 255#8 true 0x80#8).wf = true := by
  decide

theorem test_witness_stepRuns : let s := given [.cmd 0x2010011C#32, .pop] on2
    s.env.rst = false ∧ s.port.held = false ∧ s.env.inputs = .cmd 0x2010011C#32 :: [.pop] ∧
      decode (.cmd 0x2010011C#32) = .ok (.drive 1#8 true 28#8) := by decide

theorem test_witness_strayWord : let s := given [.cmd 0x10018003#32, .cmd 0x70000001#32] on2
    s.env.rst = false ∧ s.port.held = false ∧ (given [.cmd 0x70000001#32] on2).env.inputs = [.cmd 0x70000001#32] ∧
      decode (.cmd 0x70000001#32) = .error .strayBits := by decide

theorem test_witness_holdLifts : let s := { held2 with tx := { held2.tx with pending := false } }
    s.env.rst = false ∧ s.port.held = true ∧ s.holdCond = false := by decide

theorem test_witness_heldTakesNoCommand : let s := given [.cmd 0xA0000000#32, .rst false] held2
    s.env.rst = false ∧ s.port.held = true ∧ s.holdCond = true ∧ step s = .next (given [.cmd 0xA0000000#32] held2) :=
  ⟨rfl, rfl, by decide +kernel, rfl⟩

theorem test_witness_popPasses : let s := given [.cmd 0x70000000#32, .cmd 0#32, .pop, .rst true] held2
    s.env.rst = false ∧ s.port.held = true ∧ s.holdCond = true ∧
      s.env.inputs = [0x70000000#32, 0#32].map .cmd ++ .pop :: [.rst true] := by decide

theorem test_witness_create : (2#2 ≠ 3#2 ∧ (127#14).toNat ≤ 127 ∧ idle2.nLoco ≠ idle2.cfg.nLoco) ∧
    ((128#14).toNat > 127) ∧ { idle2 with slots := [loco3, loco3, loco3] }.nLoco = idle2.cfg.nLoco := by decide

theorem test_witness_handles : (1#8).toNat < idle2.nLoco ∧ idle2.nLoco ≤ (2#8).toNat := by decide

theorem test_witness_functions : (12#5).toNat ≤ 12 ∧ 12 < (13#5).toNat ∧ functionTable.length = 13 := by decide

theorem test_witness_setThenGet : (0#8).toNat < idle2.nLoco ∧ (1#8).toNat < idle2.nLoco ∧ (4#5).toNat ≤ 12 ∧ (12#5).toNat ≤ 12 ∧
    exec (.setFn 0#8 12#5 true) idle2 =
      .next (answered 0#4 0#8 { idle2 with slots := [{ loco3 with fg2 := 0xA8#8 }, loco1234] }) :=
  ⟨by decide, by decide, by decide, by decide, rfl⟩

theorem test_witness_powerOn : checkMa (sensing 1000 State.reset) = 1000 ∧
    checkMa (sensing 1001 State.reset) = 1001 := by decide +kernel

theorem test_witness_loopHeld_estop : let s := { pending2 with estop := true, slots := [] }
    s.power = true ∧ s.ocLatch = false ∧ s.tx.pending = true ∧ s.estop = true := by decide
theorem test_witness_loopHeld_regDirty : let s := { pending2 with regDirty := true, slots := [] }
    s.power = true ∧ s.ocLatch = false ∧ s.tx.pending = true ∧ s.regDirty = true := by decide
theorem test_witness_loopHeld_slot : pending2.power = true ∧ pending2.ocLatch = false ∧ pending2.tx.pending = true ∧
    ∃ v ∈ pending2.slots, v.dirty = true := by decide

theorem test_witness_loopNotHeld : exec .loop { idle2 with fault := 0b0010#4 } =
    .next (answered 2#4 0#8 (loopUnchecked { idle2 with fault := 0b0010#4 })) := rfl

theorem test_witness_loopLatched : let s := { pending2 with ocLatch := true }
    s.power = true ∧ s.ocLatch = true := by decide

theorem test_witness_loopOvercurrent : let s := at' 1100 (sensing 1001 on2)
    s.power = true ∧ s.ocLatch = false ∧ s.holdCond = false ∧
      100 ≤ (s.env.timeNow - s.mon.lastCheckMs).toNat ∧ checkMa s = 1001 := by decide +kernel

/-- The time difference of exactly 99 takes no check, wrapped (95_test_vectors.md 2.7). -/
theorem test_witness_reachesTick_unchecked : let s := at' 0x23 { on2 with mon := { on2.mon with lastCheckMs := 0xFFFFFFC0#32 } }
    reachesTick s (loopUnchecked s) ∧ ¬ loopCheckDue s := by
  have h : ¬ loopCheckDue (at' 0x23 { on2 with mon := { on2.mon with lastCheckMs := 0xFFFFFFC0#32 } }) := by
    unfold loopCheckDue; decide
  exact ⟨.inl ⟨h, rfl⟩, h⟩

/-- The time difference of exactly 100 takes it, and 1000 mA passes. -/
theorem test_witness_reachesTick_checked : let s := at' 1100 (sensing 1000 on2)
    reachesTick s (loopChecked s) ∧ s.power = true ∧ s.ocLatch = false ∧ s.tx.pending = false :=
  ⟨.inr ⟨by unfold loopCheckDue; decide +kernel, by decide +kernel, rfl⟩, by decide, by decide, by decide⟩

theorem test_witness_loopEmergency : let s := at' 1099 { on2 with estop := true }
    s.power = true ∧ s.ocLatch = false ∧ s.tx.pending = false ∧ s.estop = true ∧ ¬ 100 ≤ (s.env.timeNow - s.mon.lastCheckMs).toNat := by
  decide

theorem test_witness_loopRebuilds : (∃ v ∈ on2.slots, v.dirty = true) ∧
    (∀ v ∈ on2.slots, v.mode = 0#2 ∨ v.mode = 1#2) ∧ on2.estop = false ∧ on2.nLoco ≤ on2.cfg.nLoco := by decide
theorem test_witness_loopRebuilds_idle : let s := { on2 with slots := [], regDirty := true }
    s.regDirty = true ∧ (∀ v ∈ s.slots, v.mode = 0#2 ∨ v.mode = 1#2) ∧ s.nLoco ≤ s.cfg.nLoco := by decide

theorem test_witness_loopUnsupported : let s := { on2 with slots := [loco3, loco14] }
    (∃ v ∈ s.slots, v.dirty = true) ∧ ∃ v ∈ s.slots, ¬ (v.mode = 0#2 ∨ v.mode = 1#2) := by decide

theorem test_witness_loopNothing : let s := { pending2 with slots := [loco1234] }
    s.power = true ∧ s.ocLatch = false ∧ s.estop = false ∧ s.regDirty = false ∧ ∀ v ∈ s.slots, v.dirty = false := by decide

theorem test_witness_handoff : (9 < emergSeq.length ∧ emergSeq.length ≤ 10) ∧ (on2.tx.bank (!on2.tx.active)).w.wf = true := by
  decide

theorem test_witness_rebuild : (∀ v ∈ idle2.slots, v.mode = 0#2 ∨ v.mode = 1#2) ∧
    ∃ v ∈ [loco14], ¬ (v.mode = 0#2 ∨ v.mode = 1#2) := by decide

theorem test_witness_pop : let s := { on2 with tx := { on2.tx with rd := 1 } }
    on2.tx.rd + 1 ≠ (on2.tx.bank on2.tx.active).len ∧
    (s.tx.rd + 1 = (s.tx.bank s.tx.active).len ∧ s.tx.pending = false) ∧
    ({ pending2.tx with rd := 1 }.rd + 1 = (pending2.tx.bank pending2.tx.active).len ∧ pending2.tx.pending = true) := by
  decide

theorem test_witness_pops : idleSeq ≠ [] ∧ (pending2.tx.bank pending2.tx.active).holds idleSeq ∧ pending2.tx.rd = 0 := by
  decide

theorem test_witness_wirePackets : (2 ≤ [1#8, 2#8].length ∧ [1#8, 2#8, 3#8, 4#8, 5#8].length ≤ 5) ∧
    [1#8].length < 2 ∧ 5 < [1#8, 2#8, 3#8, 4#8, 5#8, 6#8].length := by decide

theorem test_witness_rows : (loco3.wf ∧ (loco3.mode = 0#2 ∨ loco3.mode = 1#2)) ∧
    (loco1234.wf ∧ (loco1234.mode = 0#2 ∨ loco1234.mode = 1#2)) ∧ ({ loco3 with addr := 127#14 } : Slot).wf := by decide

theorem test_witness_speeds : (-128 : Int) ≤ -128 ∧ (127 : Int) ≤ 127 ∧ (126 : Int) ≤ 127 := by decide

theorem test_witness_frames : packetWords [3#8, 0x80#8] = packetWords [3#8, 0x80#8] ∧ [3#8, 0x80#8].length = 2 ∧
    [1#8, 2#8, 3#8, 4#8, 5#8].length = 5 := by decide

theorem test_witness_readings : List.Forall₂ (· ≤ ·) [0, 4095] [1, 4095] ∧ ∀ r ∈ [0, 4095], r ≤ 4095 :=
  ⟨.cons (by decide) (.cons (by decide) .nil), by decide⟩

theorem test_witness_steady : 65535 < 2 ^ 16 ∧ Config.default.valid = true ∧ Config.default.gainNum = 1 ∧
    Config.default.gainDen = 1 ∧ Config.default.biasMa = 0 ∧ (Config.mk 16 12 3 2 20 17).valid = true := by decide

/-- The smoothing and the conversion against 95_test_vectors.md 2.6. -/
theorem test_smoothing : (smoothAll [1000]).1 = 11468800 ∧ (smoothAll [1000, 1000]).1 = 20930560 ∧
    toMilliamps ⟨16, 12, 3, 2, 20, 17⟩ 44564475 = 1000 ∧ toMilliamps ⟨16, 12, 3, 2, 20, 17⟩ 655355 = -5 := by decide

/-- Milliamps beyond the width of `last_ma` are a free value there, and the check goes on with the exact number. -/
theorem test_powerOn_wide : after (exec .powerOn (at' 7 { sensing 4000 State.reset with cfg := ⟨16, 12, 100, 1, 0, 17⟩ }))
    (fun t => (t.port.rsp, t.ocLatch, t.mon.peak)) = some (0x0001#16, true, 262143995) := by decide +kernel

/-- The outputs of a PoweredOn state (R27): `st_ma` is the low 16 bits of a negative value. -/
theorem test_statusOutputs : { pending2 with mon := { pending2.mon with lastMa := -5 }, fault := 2#4 }.statusOutputs =
    ⟨true, false, true, false, 2#4, 2#9, 0xFFFB#16⟩ := by decide

/-- The banks of a PoweredOn state with a hand-off pending meet R36, and a step goes on from there. -/
theorem test_witness_inv : (given [.cmd 0x2010011C#32] pending2).inv :=
  ⟨⟨by decide, by decide⟩, by decide +kernel, by decide +kernel,
    ⟨by decide, by decide, idleSeq, by decide, [[0xFF#8, 0x00#8]], by decide, by decide +kernel⟩, by decide,
    fun _ => ⟨by decide, by decide, emergSeq, by decide +kernel, List.replicate 5 [0x00#8, 0x01#8], by decide, by decide +kernel⟩⟩

theorem test_witness_inv_step : step (given [.cmd 0x2010011C#32] pending2) = .next (answered 0#4 0#8
    { pending2 with slots := [loco3, { loco1234 with dir := true, speed := 28#8, dirty := true }] }) := rfl

theorem test_witness_lines_and_monitor : on2.powerWf ∧ on2.monitorWf ∧ held2.heldWf ∧ held2.port.held = true ∧
    on2.fault.getLsbD 3 = false ∧ step (given [.cmd 0x80000000#32] on2) = exec .estop on2 :=
  ⟨by decide, by decide, by decide, rfl, by decide, rfl⟩

theorem test_witness_frameRules : exec .estop { on2 with fault := 0b0101#4 } =
    .next (answered 0#4 0#8 { on2 with fault := 0b0101#4, estop := true }) := rfl

theorem test_witness_latch : exec .loop { pending2 with ocLatch := true } =
    .next (answered 1#4 0#8 { loopUnchecked { pending2 with ocLatch := true } with fault := 1#4 }) := rfl

theorem test_witness_statuses : Instr.isCommand .estop ∧ (answered 0#4 0#8 { on2 with estop := true }).port.held = false := by
  decide

theorem test_witness_notDue : let s := at' 1099 { on2 with slots := [] }
    ¬ 100 ≤ (s.env.timeNow - s.mon.lastCheckMs).toNat ∧ exec .loop s = .next (answered 0#4 0#8 (loopUnchecked s)) :=
  ⟨by decide, rfl⟩

theorem test_witness_flagsKept : let s := at' 1000 { on2 with slots := [loco14] }
    s.tx.pending = false ∧
      exec .loop s = .next (answered 3#4 0#8 { loopUnchecked s with fault := 0b0100#4 }) :=
  ⟨rfl, rfl⟩

/-! ### Witnesses for the runs of R73: a fair run with a held LOOP, and a run in which the consumer has stopped -/

/-- A held LOOP, the consumer at the last word, and a pop offered. -/
def fairStart : State :=
  at' 1010 (given [.pop] { held2 with tx := { held2.tx with rd := 1 } })

/-- One step, after which the consumer offers a pop. -/
def popOn (s : State) : State :=
  match step s with
  | .next t => offer [.pop] [] [] t
  | _ => s

/-- The run in which the consumer never stops. -/
def fairRun : Nat → State
  | 0 => fairStart
  | n + 1 => popOn (fairRun n)

/-- Nothing but pops is offered, one at least, and nothing holds them. -/
def onlyPops (s : State) : Prop :=
  s.env.rst = false ∧ s.port.held = false ∧ ∃ k, s.env.inputs = .pop :: List.replicate k .pop

theorem fetch_of_onlyPops {s : State} (h : onlyPops s) : ∃ k, fetch s = .run .pop (setInputs (List.replicate k .pop) s) := by
  obtain ⟨h1, h2, k, hk⟩ := h
  refine ⟨k, ?_⟩
  unfold fetch
  rw [if_neg (by simp [h1]), if_neg (by simp [h2]), hk]
  rfl

theorem onlyPops_popOn {s : State} (h : onlyPops s) :
    onlyPops (popOn s) ∧ ∃ t, step s = .next t ∧ popOn s = offer [.pop] [] [] t := by
  obtain ⟨k, hk⟩ := fetch_of_onlyPops h
  have hs : step s = execPop (setInputs (List.replicate k .pop) s) := by unfold step; rw [hk]; rfl
  unfold popOn
  rw [hs]
  refine ⟨⟨h.1, h.2.1, k, ?_⟩, _, rfl, rfl⟩
  show List.replicate k Input.pop ++ [.pop] = .pop :: List.replicate k .pop
  rw [← List.replicate_succ', List.replicate_succ]

theorem onlyPops_fairRun : ∀ n, onlyPops (fairRun (n + 2)) := by
  intro n
  induction n with
  | zero => exact ⟨by decide +kernel, by decide +kernel, 1, by decide +kernel⟩
  | succ n ih => exact (onlyPops_popOn ih).1

/-- A fair run that meets R36 and begins with a held LOOP. -/
theorem test_witness_fairRun : isRun fairRun ∧ fairPop fairRun ∧ (fairRun 0).inv ∧ (fairRun 0).port.held = true := by
  refine ⟨?_, fun n _ => ?_, ?_, rfl⟩
  · intro n
    match n with
    | 0 => exact ⟨_, [.pop], [], [], rfl, rfl⟩
    | 1 => exact ⟨_, [.pop], [], [], rfl, rfl⟩
    | n + 2 =>
      obtain ⟨-, t, ht, he⟩ := onlyPops_popOn (onlyPops_fairRun n)
      exact ⟨t, [.pop], [], [], ht, he⟩
  · obtain ⟨k, hk⟩ := fetch_of_onlyPops (onlyPops_fairRun n)
    exact ⟨n + 2, by omega, _, hk⟩
  · exact ⟨⟨by decide, by decide⟩, by decide +kernel, by decide +kernel,
      ⟨by decide, by decide, idleSeq, by decide, [[0xFF#8, 0x00#8]], by decide, by decide +kernel⟩, by decide,
      fun _ => ⟨by decide, by decide, emergSeq, by decide +kernel, List.replicate 5 [0x00#8, 0x01#8], by decide,
        by decide +kernel⟩⟩

/-- The consumer has stopped behind a pending hand-off (93_implementation_defined.md U12). -/
theorem test_witness_stoppedConsumer : let σ : Nat → State := fun _ => held2
    isRun σ ∧ (∀ m, 0 ≤ m → (σ m).env.rst = false ∧ ¬ (σ m).takesPop) ∧ (σ 0).port.held = true ∧ (σ 0).holdCond = true :=
  ⟨fun _ => ⟨held2, [], [], [], rfl, rfl⟩,
    fun _ _ => ⟨rfl, fun ⟨_, h⟩ => by
      have hf : fetch held2 = .settled held2 := rfl
      simp only [hf] at h
      cases h⟩, rfl, by decide +kernel⟩

end Sys2Proof.Tests
end

section
/-! SUPPORT. What an instruction can do, said once (`Effect`), what a step keeps (`step_keeps`), and with them the statements
of 10_state.md: reset, the invariants of R36, the monitor's widths, the lines and the sticky fault bits. -/

namespace Sys2Proof.Machine

/-! ### Everything an instruction can do -/

/-- The states in which a LOOP of `s` that is not held raises, or ticks: the time is read, with or without a check (R275). -/
inductive LoopReaches (s : State) : State → Prop
  | unchecked : LoopReaches s (loopStart s)
  | checked : LoopReaches s (checkedAt s.env.timeNow (loopStart s))

/-- What an instruction that goes on can do to `s`, one constructor per kind of change. -/
inductive Effect (s : State) : Instr → State → Prop
  /-- A refusal, or a read of a function: the response alone. -/
  | answered {i} (st : BitVec 4) (v : BitVec 8) : Effect s i (respond st v s)
  | created {addr long mode} (hm : mode ≠ 3#2) (ha : long = false → addr.toNat ≤ 127) (hn : s.nLoco ≠ s.cfg.nLoco) :
      Effect s (.create addr long mode)
        (respond statusOk (BitVec.ofNat 8 s.nLoco) { s with slots := s.slots ++ [freshSlot addr long mode] })
  | driven {h dir speed v} (hv : s.slot? h = some v) :
      Effect s (.drive h dir speed) (ok (setSlot h { v with dir := dir, speed := speed, dirty := true } s))
  | fnSet {h fn on v} (hv : s.slot? h = some v) (hf : fn.toNat ≤ maxFn) :
      Effect s (.setFn h fn on) (ok (setSlot h
        { v.setFg (groupIndex fn.toNat) (fnByte (v.fg (groupIndex fn.toNat)) fn.toNat on) with dirty := true } s))
  | poweredUp {i} (hi : i = .powerOn ∨ i = .beginCmd) :
      Effect s i (ok (checkedAt s.env.timeNow (energise (takeTime s))))
  | powerUpTripped {i} (hi : i = .powerOn ∨ i = .beginCmd) :
      Effect s i (raise .overcurrent (setOcLatch (checkedAt s.env.timeNow (energise (takeTime s)))))
  | poweredDown : Effect s .powerOff (ok (powerDown s))
  | deinited : Effect s .deinit (ok { powerDown s with slots := [], regDirty := true })
  | estopped : Effect s .estop (ok { s with estop := true })
  | loopHeld : Effect s .loop (hold s)
  | loopRaised {b} (k : FaultKind) (hb : LoopReaches s b) : Effect s .loop (raise k b)
  | loopTripped {b} (hb : LoopReaches s b) : Effect s .loop (raise .overcurrent (setOcLatch b))
  | loopTicked {b t} (hb : LoopReaches s b) (ht : tick b = .next t) : Effect s .loop t
  | popped : Effect s .pop
      { s with tx := s.tx.advance, obs := { s.obs with popped := s.obs.popped ++ [s.txWord] } }
  | emitted {i} (e : Encoder) (hi : isEmission i = true) : Effect s i { s with enc := e }
  /-- An emission of illegal length (log 12). -/
  | badFrame {bytes} : Effect s (.wirePacket bytes) (recordFault .invalidLength s)

/-- CREATE refuses, or appends the fresh record (R175). -/
theorem effect_execCreate {addr : BitVec 14} {long : Bool} {mode : BitVec 2} {s t : State}
    (h : execCreate addr long mode s = .next t) : Effect s (.create addr long mode) t := by
  unfold execCreate at h
  injection h with h
  subst h
  split_ifs with hm ha hn
  · exact .answered _ _
  · exact .answered _ _
  · exact .answered _ _
  · exact .created hm (fun hl => by simpa [hl] using ha) hn

/-- DRIVE refuses, or stores the pair (R176). -/
theorem effect_execDrive {h : BitVec 8} {dir : Bool} {speed : BitVec 8} {s t : State}
    (he : execDrive h dir speed s = .next t) : Effect s (.drive h dir speed) t := by
  unfold execDrive at he
  injection he with he
  subst he
  cases hv : s.slot? h with
  | none => exact .answered _ _
  | some v => exact .driven hv

/-- SET_FN refuses, ignores the index, or writes one group byte (R154). -/
theorem effect_execSetFn {h : BitVec 8} {fn : BitVec 5} {on : Bool} {s t : State}
    (he : execSetFn h fn on s = .next t) : Effect s (.setFn h fn on) t := by
  unfold execSetFn at he
  injection he with he
  subst he
  cases hv : s.slot? h with
  | none => exact .answered _ _
  | some v =>
    dsimp only
    split_ifs with hf
    · exact .answered _ _
    · exact .fnSet hv (not_lt.mp hf)

/-- GET_FN only answers (R156). -/
theorem effect_execGetFn {h : BitVec 8} {fn : BitVec 5} {s t : State}
    (he : execGetFn h fn s = .next t) : Effect s (.getFn h fn) t := by
  unfold execGetFn at he
  injection he with he
  subst he
  cases s.slot? h with
  | none => exact .answered _ _
  | some v => exact .answered _ _

/-- POWER_ON and BEGIN pass their check or trip it (R270, R272). -/
theorem effect_powerUp {i : Instr} (hi : i = .powerOn ∨ i = .beginCmd) (s : State) : Effect s i (powerUp s) := by
  rcases powerUp_cases s with ⟨-, h⟩ | ⟨-, h⟩
  · exact h ▸ .poweredUp hi
  · exact h ▸ .powerUpTripped hi

/-- LOOP is held, raises, or ticks (R226, R275). -/
theorem effect_execLoop {s t : State} (h : execLoop s = .next t) : Effect s .loop t := by
  rcases execLoop_cases h with
    ⟨-, rfl⟩ | ⟨-, ⟨-, rfl⟩ | ⟨-, -, rfl⟩ | ⟨-, -, -, -, rfl⟩ | ⟨-, -, -, -, ht⟩ | ⟨-, -, -, ht⟩⟩
  · exact .loopHeld
  · exact .loopRaised _ .unchecked
  · exact .loopRaised _ .unchecked
  · exact .loopTripped .checked
  · exact .loopTicked .checked ht
  · exact .loopTicked .unchecked ht

/-- A packet is emitted, or its length is illegal (R190). -/
theorem effect_execWirePacket {bytes : List Byte} {s t : State} (h : execWirePacket bytes s = .next t) :
    Effect s (.wirePacket bytes) t := by
  unfold execWirePacket at h
  injection h with h
  subst h
  cases framePacket bytes with
  | none => exact .badFrame
  | some ws => exact .emitted _ rfl

/-- Every instruction that goes on has one of the effects. -/
theorem effect_of_exec {i : Instr} {s t : State} (h : exec i s = .next t) : Effect s i t := by
  cases i with
  | create addr long mode => exact effect_execCreate h
  | drive hd dir speed => exact effect_execDrive h
  | setFn hd fn on => exact effect_execSetFn h
  | getFn hd fn => exact effect_execGetFn h
  | loop => exact effect_execLoop h
  | wirePacket bytes => exact effect_execWirePacket h
  | powerOn => injection h with h; exact h ▸ effect_powerUp (.inl rfl) s
  | beginCmd => injection h with h; exact h ▸ effect_powerUp (.inr rfl) s
  | powerOff => injection h with h; exact h ▸ .poweredDown
  | deinit => injection h with h; exact h ▸ .deinited
  | estop => injection h with h; exact h ▸ .estopped
  | pop => injection h with h; exact h ▸ .popped
  | reservedOp0 | reservedOpB | reservedOpC | reservedOpD | reservedOpE | reservedOpF =>
    injection h with h; exact h ▸ .answered _ _
  | wireAddrShort | wireAddrLong | wireSpeed128 | wireSpeed28 | wireFnGroup0 | wireFnGroup1 | wireFnGroup2
  | wireIdle | wireBroadcastEstop =>
    injection h with h; exact h ▸ .emitted _ rfl

/-! ### What a step keeps -/

/-- A property that reset has, that every instruction keeps and that does not read the environment is kept by every step. -/
theorem step_keeps {P : State → Prop} (hreset : ∀ c, P (State.resetWith c))
    (hframe : ∀ s (e : Env) (o : Obs), P s → P { s with env := e, obs := o })
    (hexec : ∀ i s t, P s → Effect s i t → P t) {s t : State} (hs : P s) (h : step s = .next t) : P t := by
  have henv : ∀ u (e : Env), P u → P { u with env := e } := fun u e hu => hframe u e u.obs hu
  have hblock : ∀ (u : State) (e : Env), P { u.blockReset with env := e } :=
    fun u e => hframe (State.resetWith u.cfg) e u.obs (hreset u.cfg)
  rcases step_cases h with
    ⟨-, e, rfl⟩ | ⟨-, rfl | ⟨lvl, rest, rfl⟩ | ⟨-, rest, rfl⟩ | ⟨-, -, he⟩ | ⟨-, rest, i, -, -, -, he⟩⟩
  · exact hblock _ _
  · exact hs
  · cases lvl
    · exact henv _ _ (henv _ _ hs)
    · exact hblock _ _
  · exact hexec (.reservedOp0 0#28) _ _ (henv _ _ hs) (.answered _ _)
  · exact hexec _ _ _ hs (effect_of_exec he)
  · exact hexec _ _ _ (henv _ _ hs) (effect_of_exec he)

/-! ### Slots stay well formed (R22, R36 (d) and (e)) -/

/-- The leading bits of a group's byte, which never change (R22, R36 (d)). -/
def Group.mask : Group → Byte
  | .g0 => 0xE0#8
  | .g1 => 0xF0#8
  | .g2 => 0xF0#8

/-- What stands in them. -/
def Group.fixed : Group → Byte
  | .g0 => 0x80#8
  | .g1 => 0xB0#8
  | .g2 => 0xA0#8

/-- `Slot.wf` with its three bytes said once, for every group. -/
theorem slot_wf_iff (v : Slot) : v.wf ↔
    (∀ g : Group, v.fg g &&& g.mask = g.fixed) ∧ (v.long = false → v.addr.toNat ≤ 127) ∧ v.mode ≠ 3#2 := by
  constructor
  · rintro ⟨h0, h1, h2, ha, hm⟩
    refine ⟨fun g => ?_, ha, hm⟩
    cases g
    · exact h0
    · exact h1
    · exact h2
  · rintro ⟨hg, ha, hm⟩
    exact ⟨hg .g0, hg .g1, hg .g2, ha, hm⟩

theorem fg_setFg (v : Slot) (g k : Group) (b : Byte) : (v.setFg g b).fg k = if k = g then b else v.fg k := by
  cases g <;> cases k <;> rfl

@[simp] theorem setFg_long (v : Slot) (g : Group) (b : Byte) : (v.setFg g b).long = v.long := by cases g <;> rfl
@[simp] theorem setFg_addr (v : Slot) (g : Group) (b : Byte) : (v.setFg g b).addr = v.addr := by cases g <;> rfl
@[simp] theorem setFg_mode (v : Slot) (g : Group) (b : Byte) : (v.setFg g b).mode = v.mode := by cases g <;> rfl

/-- What SET_FN ORs in again is what the group's byte has fixed (R152). -/
theorem groupPrefix_eq_fixed (fn : Nat) : groupPrefix fn = (groupIndex fn).fixed := by
  unfold groupPrefix
  cases groupIndex fn <;> rfl

/-- A function's bit lies outside the fixed bits of its group (R151). -/
theorem fnBit_and_mask {fn : Nat} (hf : fn ≤ maxFn) : 1#8 <<< bitShift fn &&& (groupIndex fn).mask = 0#8 := by
  unfold maxFn at hf
  interval_cases fn <;> decide

/-- Writing a function's bit keeps the fixed bits of its group (R154). -/
theorem fnByte_and_mask {b : Byte} {fn : Nat} (on : Bool) (hf : fn ≤ maxFn)
    (hb : b &&& (groupIndex fn).mask = (groupIndex fn).fixed) :
    fnByte b fn on &&& (groupIndex fn).mask = (groupIndex fn).fixed := by
  have hbit := fnBit_and_mask hf
  unfold fnByte
  rw [groupPrefix_eq_fixed, ← hb]
  generalize 1#8 <<< bitShift fn = m at hbit
  generalize (groupIndex fn).mask = mask at hbit
  apply BitVec.eq_of_getElem_eq
  intro j hlt
  have hj : (m &&& mask)[j] = false := by rw [hbit, BitVec.getElem_zero]
  cases hmask : mask[j] with
  | false => simp [hmask]
  | true =>
    have hm : m[j] = false := by simpa [hmask] using hj
    cases on <;> simp [hmask, hm]

/-- The record of CREATE is well formed when its operands were not refused (R175). -/
theorem wf_freshSlot {addr : BitVec 14} {long : Bool} {mode : BitVec 2} (hm : mode ≠ 3#2)
    (ha : long = false → addr.toNat ≤ 127) : (freshSlot addr long mode).wf :=
  ⟨by simp [freshSlot], by simp [freshSlot], by simp [freshSlot], ha, hm⟩

/-- A slot stays well formed under SET_FN (R154). -/
theorem wf_setFg_fnByte {v : Slot} {fn : Nat} (on : Bool) (hf : fn ≤ maxFn) (hv : v.wf) :
    (v.setFg (groupIndex fn) (fnByte (v.fg (groupIndex fn)) fn on)).wf := by
  rw [slot_wf_iff] at hv ⊢
  obtain ⟨hg, ha, hm⟩ := hv
  refine ⟨fun k => ?_, by simpa using ha, by simpa using hm⟩
  rw [fg_setFg]
  split_ifs with hk
  · subst hk
    exact fnByte_and_mask on hf (hg _)
  · exact hg k

/-! ### The registry stays well formed (R21, R36) -/

/-- A new slot keeps the registry within N_LOCO, since a full one was refused (R175). -/
theorem registryWf_append {s : State} {v : Slot} (hn : s.nLoco ≠ s.cfg.nLoco) (hv : v.wf) (hs : s.registryWf) :
    ({ s with slots := s.slots ++ [v] } : State).registryWf := by
  obtain ⟨hle, hwf⟩ := hs
  refine ⟨?_, ?_⟩
  · have hlt : s.nLoco < s.cfg.nLoco := lt_of_le_of_ne hle hn
    simpa [State.nLoco] using hlt
  · intro u hu
    rcases List.mem_append.mp hu with hu | hu
    · exact hwf u hu
    · exact List.mem_singleton.mp hu ▸ hv

/-- A slot in use is well formed. -/
theorem wf_of_slot? {s : State} {h : BitVec 8} {v : Slot} (hs : s.registryWf) (hv : s.slot? h = some v) : v.wf :=
  hs.2 v (List.mem_of_getElem? hv)

theorem registryWf_setSlot {s : State} {v : Slot} (h : BitVec 8) (hv : v.wf) (hs : s.registryWf) :
    (setSlot h v s).registryWf := by
  obtain ⟨hle, hwf⟩ := hs
  refine ⟨by simpa [State.nLoco] using hle, fun u hu => ?_⟩
  rcases List.mem_or_eq_of_mem_set hu with hu | rfl
  · exact hwf u hu
  · exact hv

theorem registryWf_clearDirty {s : State} (hs : s.registryWf) : (clearDirty s).registryWf := by
  obtain ⟨hle, hwf⟩ := hs
  refine ⟨by simpa [State.nLoco] using hle, fun u hu => ?_⟩
  obtain ⟨v, hv, rfl⟩ := List.mem_map.mp hu
  exact hwf v hv

/-! ### The transmit banks stay well formed (R28, R36 (a) to (c)) -/

/-- The shadow bank after a hand-off holds the sequence, whatever it held before (R225). -/
theorem sound_writeFrom {c : Config} {seq : List Word} (m : Memory) (hne : seq ≠ []) (hlen : seq.length ≤ c.bankWords)
    (hwhole : wholePackets seq) : Bank.sound c ⟨seq.length, m.writeFrom 0 seq⟩ := by
  refine ⟨List.length_pos_iff.mpr hne, hlen, seq, ⟨rfl, fun i hi => ?_⟩, hwhole⟩
  simpa using read_writeFrom_inside m seq 0 hi

/-- The canonical form of both banks, said of either. -/
theorem banks_wf_iff (t : TxBuffer) : (t.bank0.w.wf = true ∧ t.bank1.w.wf = true) ↔ ∀ b, (t.bank b).w.wf = true :=
  ⟨fun ⟨h0, h1⟩ b => by cases b <;> assumption, fun h => ⟨h false, h true⟩⟩

theorem handoff_banks_wf {t : TxBuffer} (seq : List Word) (h : ∀ b, (t.bank b).w.wf = true) (b : Bool) :
    ((t.handoff seq).bank b).w.wf = true := by
  rcases Bool.eq_or_eq_not b t.active with rfl | rfl
  · rw [handoff_bank_active]; exact h _
  · rw [handoff_bank_shadow]; exact wf_writeFrom 0 seq (h _)

/-- A hand-off of whole packets that fit keeps the banks (R225). -/
theorem txWf_commit {s : State} {seq : List Word} (hne : seq ≠ []) (hlen : seq.length ≤ s.cfg.bankWords)
    (hwhole : wholePackets seq) (hs : s.txWf) : (commit seq s).txWf := by
  obtain ⟨h0, h1, hactive, hrd, -⟩ := hs
  obtain ⟨h0', h1'⟩ := (banks_wf_iff _).mpr (handoff_banks_wf seq ((banks_wf_iff _).mp ⟨h0, h1⟩))
  refine ⟨h0', h1', ?_, ?_, fun _ => ?_⟩
  · simpa using hactive
  · simpa using hrd
  · simpa using sound_writeFrom _ hne hlen hwhole

/-- A pop keeps the banks: what becomes active was handed off, and the pointer stays inside (R63). -/
theorem txWf_advance {s : State} (hs : s.txWf) : ({ s with tx := s.tx.advance } : State).txWf := by
  obtain ⟨h0, h1, hactive, hrd, hshadow⟩ := hs
  rcases advance_cases s.tx with ⟨-, hp, he⟩ | ⟨-, -, he⟩ | ⟨hne, he⟩ <;> rw [he]
  · exact ⟨h0, h1, hshadow hp, (hshadow hp).1, by simp⟩
  · exact ⟨h0, h1, hactive, hactive.1, hshadow⟩
  · exact ⟨h0, h1, hactive, lt_of_le_of_ne hrd hne, hshadow⟩

/-! ### The invariants of R36 -/

theorem txWf_of_eq {s t : State} (hc : t.cfg = s.cfg) (hx : t.tx = s.tx) (hs : s.txWf) : t.txWf := by
  unfold State.txWf
  rwa [hc, hx]

/-- R36 speaks of the parameters, the registry and the banks alone. -/
theorem inv_of_eq {s t : State} (hc : t.cfg = s.cfg) (hv : t.slots = s.slots) (hx : t.tx = s.tx) (hs : s.inv) : t.inv := by
  obtain ⟨hreg, htx⟩ := hs
  refine ⟨?_, txWf_of_eq hc hx htx⟩
  unfold State.registryWf State.nLoco
  rwa [hc, hv]

/-- Bank 0 after reset is the Idle packet, and nothing is pending (R33). -/
theorem inv_resetWith (c : Config) : (State.resetWith c).inv := by
  have hfit : 2 ≤ c.bankWords := le_trans (by decide) (Nat.le_max_left 10 _)
  have hidle : Bank.holds ⟨2, [(0, 0xFFFFFFFF#32), (1, 0xF7F801FF#32)]⟩ idleSeq := by decide
  have hwhole : wholePackets idleSeq := ⟨[[0xFF#8, 0x00#8]], by decide, by simp [idleSeq_eq]⟩
  exact ⟨⟨Nat.zero_le _, List.forall_mem_nil _⟩, rfl, rfl, ⟨Nat.le_succ 1, hfit, idleSeq, hidle, hwhole⟩, Nat.zero_lt_two,
    fun hp => absurd hp Bool.false_ne_true⟩

/-- What a rebuild gives is not empty. -/
theorem rebuild_ne_nil {s : State} {seq : List Word} (h : rebuild s = .ok seq) : wholePackets seq ∧ seq ≠ [] := by
  rcases rebuild_cases s with ⟨seq', h', hw, hl, -⟩ | ⟨h', -⟩
  · rw [h] at h'
    injection h' with h'
    subst h'
    refine ⟨hw, List.length_pos_iff.mp ?_⟩
    rw [hl]
    split_ifs <;> omega
  · rw [h] at h'; cases h'

/-- A tick keeps the invariants: what it hands off is whole packets that fit (R222, R223). -/
theorem inv_tick {s t : State} (hs : s.inv) (h : tick s = .next t) : t.inv := by
  obtain ⟨hreg, htx⟩ := hs
  rcases tick_cases h with ⟨-, rfl⟩ | ⟨-, -, seq, hseq, hlen, rfl⟩ | ⟨-, -, -, rfl⟩ | ⟨-, -, rfl⟩
  · exact ⟨hreg, txWf_commit (by decide) (emergSeq_fits s.cfg) emergSeq_whole htx⟩
  · obtain ⟨hwhole, hne⟩ := rebuild_ne_nil hseq
    exact ⟨registryWf_clearDirty hreg, txWf_commit hne hlen hwhole htx⟩
  · exact ⟨hreg, htx⟩
  · exact ⟨hreg, htx⟩

/-- Where a LOOP reaches nothing of R36 has changed. -/
theorem inv_loopReaches {s b : State} (hs : s.inv) (hb : LoopReaches s b) : b.inv := by
  cases hb <;> exact inv_of_eq (s := s) (by simp) (by simp) (by simp) hs

/-- Every instruction keeps the invariants of R36. -/
theorem inv_effect {i : Instr} {s t : State} (hs : s.inv) (h : Effect s i t) : t.inv := by
  have ⟨hreg, htx⟩ := hs
  cases h with
  | created hm ha hn => exact ⟨registryWf_append hn (wf_freshSlot hm ha) hreg, htx⟩
  | driven hv =>
    have hwf := wf_of_slot? hreg hv
    exact ⟨registryWf_setSlot _ hwf hreg, htx⟩
  | fnSet hv hf => exact ⟨registryWf_setSlot _ (wf_setFg_fnByte _ hf (wf_of_slot? hreg hv)) hreg, htx⟩
  | deinited => exact ⟨⟨Nat.zero_le _, by simp⟩, txWf_of_eq (by simp) (by simp) htx⟩
  | loopTicked hb ht => exact inv_tick (inv_loopReaches hs hb) ht
  | @loopRaised b k hb => exact inv_of_eq (s := b) rfl rfl rfl (inv_loopReaches hs hb)
  | @loopTripped b hb => exact inv_of_eq (s := b) rfl rfl rfl (inv_loopReaches hs hb)
  | popped => exact ⟨hreg, txWf_advance htx⟩
  | answered | poweredUp | powerUpTripped | poweredDown | estopped | loopHeld | emitted | badFrame =>
    exact inv_of_eq (s := s) (by simp) (by simp) (by simp) hs

/-- Settles O48: reset has the invariants, and every instruction keeps them. -/
theorem stepKeepsTheStateInvariants : Obligations.StepKeepsTheStateInvariants := by
  unfold Obligations.StepKeepsTheStateInvariants
  intro s t hs h
  exact step_keeps inv_resetWith (fun s e o => inv_of_eq (s := s) rfl rfl rfl) (fun i s t => inv_effect) hs h

/-! ### The monitor's widths (R31, R251) -/

/-- The accumulator does not exceed the peak, nor the peak a bound. -/
def Smoothed (top : Nat) (a : Nat × Nat) : Prop := a.1 ≤ a.2 ∧ a.2 ≤ top * 2 ^ 16

/-- One reading: the new accumulator is a weighted mean of the old one and of the code, shifted (R251). -/
theorem smoothed_smooth {top raw : Nat} {a : Nat × Nat} (ha : Smoothed top a) (hr : raw ≤ top) :
    Smoothed top (smooth a raw) := by
  obtain ⟨hle, htop⟩ := ha
  have hmean : (alphaNum * (raw * 2 ^ 16) + (alphaDen - alphaNum) * a.1) / alphaDen ≤ top * 2 ^ 16 := by
    unfold alphaNum alphaDen
    omega
  exact ⟨Nat.le_max_right _ _, max_le htop hmean⟩

/-- After any readings that are codes (R251). -/
theorem smoothed_smoothAll {top : Nat} {raws : List Nat} (h : ∀ r ∈ raws, r ≤ top) : Smoothed top (smoothAll raws) := by
  have hfold : ∀ a, Smoothed top a → Smoothed top (raws.foldl smooth a) := by
    induction raws with
    | nil => exact fun a ha => ha
    | cons r raws ih =>
      exact fun a ha => ih (fun q hq => h q (List.mem_cons_of_mem _ hq)) _ (smoothed_smooth ha (h r List.mem_cons_self))
  exact hfold _ ⟨le_rfl, Nat.zero_le _⟩

/-- Every reading is a code of ADC_BITS bits (R250). -/
theorem readings_le {bits n r : Nat} {e : Env} (h : r ∈ e.readings bits n) : r ≤ 2 ^ bits - 1 := by
  obtain ⟨c, -, rfl⟩ := List.mem_map.mp h
  exact Nat.le_sub_one_of_lt (Nat.mod_lt _ (Nat.two_pow_pos bits))

/-- A check leaves the monitor within its widths, whatever it held before (R31, R251). -/
theorem monitorWf_checkedAt (t : BitVec 32) (s : State) : (checkedAt t s).monitorWf := by
  obtain ⟨hle, htop⟩ := smoothed_smoothAll (raws := s.sampleReadings) fun _ h => readings_le h
  exact ⟨hle, htop, maFits_lastMaOf s.cfg s.sampleMa⟩

/-- The widths speak of the parameters and the monitor alone. -/
theorem monitorWf_of_eq {s t : State} (hc : t.cfg = s.cfg) (hm : t.mon = s.mon) (hs : s.monitorWf) : t.monitorWf := by
  unfold State.monitorWf
  rwa [hc, hm]

/-- 0 fits every signed width. -/
theorem maFits_zero (c : Config) : c.maFits 0 = true := by
  simp [Config.maFits]

theorem monitorWf_resetWith (c : Config) : (State.resetWith c).monitorWf :=
  ⟨le_rfl, Nat.zero_le _, maFits_zero c⟩

/-- A LOOP reaches its raise or its tick with a monitor untouched or just sampled. -/
theorem monitorWf_loopReaches {s b : State} (hs : s.monitorWf) (hb : LoopReaches s b) : b.monitorWf := by
  cases hb with
  | unchecked => exact hs
  | checked => exact monitorWf_checkedAt _ _

/-- A tick takes no sample and changes no parameter (R223). -/
theorem tick_cfg_mon {s t : State} (h : tick s = .next t) : t.cfg = s.cfg ∧ t.mon = s.mon := by
  rcases tick_cases h with ⟨-, rfl⟩ | ⟨-, -, _, -, -, rfl⟩ | ⟨-, -, -, rfl⟩ | ⟨-, -, rfl⟩ <;> exact ⟨rfl, rfl⟩

/-- Every instruction keeps the monitor within its widths. -/
theorem monitorWf_effect {i : Instr} {s t : State} (hs : s.monitorWf) (h : Effect s i t) : t.monitorWf := by
  cases h with
  | poweredUp =>
    exact monitorWf_of_eq (by simp) (by simp) (monitorWf_checkedAt s.env.timeNow (energise (takeTime s)))
  | powerUpTripped =>
    exact monitorWf_of_eq (by simp) (by simp) (monitorWf_checkedAt s.env.timeNow (energise (takeTime s)))
  | @loopRaised b k hb => exact monitorWf_of_eq (s := b) rfl rfl (monitorWf_loopReaches hs hb)
  | @loopTripped b hb => exact monitorWf_of_eq (s := b) rfl rfl (monitorWf_loopReaches hs hb)
  | loopTicked hb ht =>
    obtain ⟨hc, hm⟩ := tick_cfg_mon ht
    exact monitorWf_of_eq hc hm (monitorWf_loopReaches hs hb)
  | answered | created | driven | fnSet | poweredDown | deinited | estopped | loopHeld | popped | emitted | badFrame =>
    exact monitorWf_of_eq (s := s) (by simp) (by simp) hs

/-- Settles O51: the monitor is written only by a check, and a check leaves it within its widths. -/
theorem stepKeepsTheMonitorWidths : Obligations.StepKeepsTheMonitorWidths := by
  unfold Obligations.StepKeepsTheMonitorWidths
  intro s t hs h
  exact step_keeps monitorWf_resetWith (fun s e o => monitorWf_of_eq (s := s) rfl rfl) (fun i s t => monitorWf_effect) hs h

/-! ### Lines, fault bits and parameters (R25, R26, R34) -/

/-- The lines and the record of line writes are the same. -/
def SameLines (s t : State) : Prop := t.lines = s.lines ∧ t.obs.lineTrace = s.obs.lineTrace

/-- A tick writes no line (R34). -/
theorem sameLines_tick {s t : State} (h : tick s = .next t) : SameLines s t := by
  rcases tick_cases h with ⟨-, rfl⟩ | ⟨-, -, _, -, -, rfl⟩ | ⟨-, -, -, rfl⟩ | ⟨-, -, rfl⟩ <;> exact ⟨rfl, rfl⟩

/-- Where a LOOP reaches no line has been written. -/
theorem sameLines_loopReaches {s b : State} (hb : LoopReaches s b) : SameLines s b := by
  cases hb <;> exact ⟨by simp, by simp⟩

/-- Every effect but those of the four power commands writes no line. -/
theorem sameLines_effect {i : Instr} {s t : State} (hon : i ≠ .powerOn) (hbegin : i ≠ .beginCmd) (hoff : i ≠ .powerOff)
    (hdeinit : i ≠ .deinit) (h : Effect s i t) : SameLines s t := by
  cases h with
  | poweredUp hi => exact absurd hi (not_or.mpr ⟨hon, hbegin⟩)
  | powerUpTripped hi => exact absurd hi (not_or.mpr ⟨hon, hbegin⟩)
  | poweredDown => exact absurd rfl hoff
  | deinited => exact absurd rfl hdeinit
  | loopRaised k hb =>
    obtain ⟨hl, ho⟩ := sameLines_loopReaches hb
    exact ⟨hl, ho⟩
  | loopTripped hb =>
    obtain ⟨hl, ho⟩ := sameLines_loopReaches hb
    exact ⟨hl, ho⟩
  | loopTicked hb ht =>
    obtain ⟨hl, ho⟩ := sameLines_loopReaches hb
    obtain ⟨hl', ho'⟩ := sameLines_tick ht
    exact ⟨hl'.trans hl, ho'.trans ho⟩
  | answered | created | driven | fnSet | estopped | loopHeld | popped | emitted | badFrame => exact ⟨rfl, rfl⟩

/-- Settles O54: of all effects only those of the power commands write a line. -/
theorem onlyPowerCommandsWriteTheLines : Obligations.OnlyPowerCommandsWriteTheLines := by
  unfold Obligations.OnlyPowerCommandsWriteTheLines
  intro i s t hon hbegin hoff hdeinit h
  exact sameLines_effect hon hbegin hoff hdeinit (effect_of_exec h)

/-- The fault record is the same or has one more kind recorded (R310), and the parameters are the same. -/
def FaultGrows (s t : State) : Prop := (t.fault = s.fault ∨ ∃ k : FaultKind, t.fault = s.fault ||| k.bit) ∧ t.cfg = s.cfg

/-- Recording clears no bit (R25). -/
theorem fault_and_of_grows {s t : State} (h : FaultGrows s t) : s.fault &&& t.fault = s.fault := by
  obtain ⟨hf | ⟨k, hf⟩, -⟩ := h
  · rw [hf, BitVec.and_self]
  · rw [hf]
    apply BitVec.eq_of_getLsbD_eq
    intro j _
    simpa using Or.inl

/-- A tick records at most one fault (R223, R228). -/
theorem faultGrows_tick {s t : State} (h : tick s = .next t) : FaultGrows s t := by
  rcases tick_cases h with ⟨-, rfl⟩ | ⟨-, -, _, -, -, rfl⟩ | ⟨-, -, -, rfl⟩ | ⟨-, -, rfl⟩
  · exact ⟨.inl rfl, rfl⟩
  · exact ⟨.inl rfl, rfl⟩
  · exact ⟨.inr ⟨_, rfl⟩, rfl⟩
  · exact ⟨.inl rfl, rfl⟩

/-- Where a LOOP reaches no fault has been recorded and no parameter changed. -/
theorem fault_cfg_loopReaches {s b : State} (hb : LoopReaches s b) : b.fault = s.fault ∧ b.cfg = s.cfg := by
  cases hb <;> exact ⟨by simp, by simp⟩

/-- Every instruction records at most one fault and changes no parameter. -/
theorem faultGrows_effect {i : Instr} {s t : State} (h : Effect s i t) : FaultGrows s t := by
  cases h with
  | powerUpTripped => exact ⟨.inr ⟨.overcurrent, by simp⟩, by simp⟩
  | badFrame => exact ⟨.inr ⟨.invalidLength, rfl⟩, rfl⟩
  | loopRaised k hb =>
    obtain ⟨hf, hc⟩ := fault_cfg_loopReaches hb
    exact ⟨.inr ⟨k, congrArg (· ||| k.bit) hf⟩, hc⟩
  | loopTripped hb =>
    obtain ⟨hf, hc⟩ := fault_cfg_loopReaches hb
    exact ⟨.inr ⟨.overcurrent, congrArg (· ||| FaultKind.overcurrent.bit) hf⟩, hc⟩
  | loopTicked hb ht =>
    obtain ⟨hf, hc⟩ := fault_cfg_loopReaches hb
    obtain ⟨hgrow, hc'⟩ := faultGrows_tick ht
    exact ⟨hf ▸ hgrow, hc'.trans hc⟩
  | answered | created | driven | fnSet | poweredUp | poweredDown | deinited | estopped | loopHeld | popped | emitted =>
    exact ⟨.inl (by simp), by simp⟩

/-- Settles O55: an effect only adds to the fault record. -/
theorem faultBitsAreStickyAndParametersFixed : Obligations.FaultBitsAreStickyAndParametersFixed := by
  unfold Obligations.FaultBitsAreStickyAndParametersFixed
  intro i s t h
  have hgrows := faultGrows_effect (effect_of_exec h)
  exact ⟨fault_and_of_grows hgrows, hgrows.2⟩

/-! ### Reset (R27, R33) -/

/-- After reset bank 0 has no word above the Idle packet (R33, R341). -/
theorem read_resetWith_bank0 (c : Config) {i : Nat} (h : 2 ≤ i) : (State.resetWith c).tx.bank0.w.read i = none := by
  have h0 : i ≠ 0 := by omega
  have h1 : i ≠ 1 := by omega
  simp [State.resetWith, Memory.read, h0, h1]

/-- The seven status outputs show the state (R27). -/
theorem statusOutputs_show (s : State) : let o := s.statusOutputs
    o.stPower = s.power ∧ o.stEstop = s.estop ∧ o.stPending = s.tx.pending ∧ o.stOc = s.ocLatch ∧
    o.stFault = s.fault ∧ o.stNloco.toNat = s.slots.length % 2 ^ 9 ∧ (o.stMa.toNat : Int) = s.mon.lastMa % 2 ^ 16 := by
  refine ⟨rfl, rfl, rfl, rfl, rfl, BitVec.toNat_ofNat _ _, ?_⟩
  simp only [State.statusOutputs, BitVec.toNat_ofInt]
  exact Int.toNat_of_nonneg (Int.emod_nonneg _ (by decide))

/-- Settles O1: the table of R33 read off the reset state, and the outputs of R27. -/
theorem resetHasTheTableValues : Obligations.ResetHasTheTableValues := by
  unfold Obligations.ResetHasTheTableValues
  refine ⟨fun c => ?_, statusOutputs_show⟩
  exact ⟨rfl, rfl, rfl, rfl, rfl, rfl, rfl, rfl, rfl, rfl, rfl, fun _ => read_resetWith_bank0 c, fun _ => rfl, rfl, rfl, rfl,
    rfl, rfl, rfl, rfl, rfl, rfl, rfl, rfl, rfl⟩

/-- Settles O2: the invariants hold after reset, for every configuration. -/
theorem resetMeetsTheInvariants : Obligations.ResetMeetsTheInvariants := by
  unfold Obligations.ResetMeetsTheInvariants
  intro c _
  have hheld : (State.resetWith c).heldWf := fun h => absurd h Bool.false_ne_true
  have hpower : (State.resetWith c).powerWf := ⟨rfl, fun h => absurd h Bool.false_ne_true⟩
  exact ⟨inv_resetWith c, hpower, monitorWf_resetWith c, hheld, by simp [State.resetWith], rfl⟩

end Sys2Proof.Machine
end

section
/-! SUPPORT. The statements of 20_memory.md: which input a step takes, what POP does to the banks and what the consumer is
sure of, and how long a held LOOP waits in a run. -/

namespace Sys2Proof.Machine

/-! ### Which input a step takes (R67, R226) -/

/-- What the fetch finds to run is the step. -/
theorem step_of_fetch_run {s s1 : State} {i : Instr} (h : fetch s = .run i s1) : step s = exec i s1 := by
  unfold step
  rw [h]

/-- An input that decodes is run. -/
theorem runInput_of_decode {n : Input} {i : Instr} (hd : decode n = .ok i) (s : State) : runInput n s = .run i s := by
  cases n with
  | rst level => cases hd
  | cmd | pop | wire | frame => simp only [runInput, hd]

/-- With the command port ready the oldest input is taken (R67). -/
theorem fetch_of_ready {s : State} {n : Input} {rest : List Input} (hr : s.env.rst = false) (hh : s.port.held = false)
    (hi : s.env.inputs = n :: rest) : fetch s = runInput n (setInputs rest s) := by
  unfold fetch
  simp [hr, hh, hi]

/-- While a LOOP is held the input that passes the command words is taken (R226). -/
theorem fetch_of_held {s : State} {n : Input} {rest : List Input} (hr : s.env.rst = false) (hh : s.port.held = true)
    (hc : s.holdCond = true) (ht : takeOther s.env.inputs = some (n, rest)) :
    fetch s = runInput n (setInputs rest s) := by
  unfold fetch
  simp [hr, hh, hc, ht]

/-- A held LOOP whose hold has lifted is what happens next (R226). -/
theorem fetch_of_lifted {s : State} (hr : s.env.rst = false) (hh : s.port.held = true) (hc : s.holdCond = false) :
    fetch s = .run .loop s := by
  unfold fetch
  simp [hr, hh, hc]

/-- A pop passes any command words before it. -/
theorem takeOther_pop_behind_cmds (ws : List Word) (rest : List Input) :
    takeOther (ws.map .cmd ++ .pop :: rest) = some (.pop, ws.map .cmd ++ rest) := by
  induction ws with
  | nil => rfl
  | cons w ws ih => simp only [List.map_cons, List.cons_append, takeOther, ih]

/-- Settles O8: the oldest input is fetched, and it runs as what it decodes to. -/
theorem stepRunsTheDecodedInput : Obligations.StepRunsTheDecodedInput := by
  unfold Obligations.StepRunsTheDecodedInput
  intro s n rest i hr hh hi hd
  exact step_of_fetch_run ((fetch_of_ready hr hh hi).trans (runInput_of_decode hd _))

/-- Settles O12: of the inputs offered the pop is the one that passes. -/
theorem popPassesWaitingCommands : Obligations.PopPassesWaitingCommands := by
  unfold Obligations.PopPassesWaitingCommands
  intro s ws rest hr hh hc hi
  have htake : takeOther s.env.inputs = some (.pop, ws.map .cmd ++ rest) := hi ▸ takeOther_pop_behind_cmds ws rest
  exact step_of_fetch_run ((fetch_of_held hr hh hc htake).trans (runInput_of_decode rfl _))

/-! ### POP (R63) -/

/-- The state after the consumer has been given the words `vs`, with its banks and pointer at `t`. -/
def afterPops (vs : List Word) (t : TxBuffer) (s : State) : State :=
  { s with tx := t, obs := { s.obs with popped := s.obs.popped ++ vs } }

/-- POP gives the word shown and advances the pointer; nothing else changes. -/
theorem exec_pop (s : State) : exec .pop s = .next (afterPops [s.txWord] s.tx.advance s) := rfl

theorem afterPops_afterPops (us vs : List Word) (t u : TxBuffer) (s : State) :
    afterPops vs u (afterPops us t s) = afterPops (us ++ vs) u s := by
  simp [afterPops]

/-- The word shown is the one that has been written there. -/
theorem txWord_of_read {s : State} {v : Word} (h : (s.tx.bank s.tx.active).w.read s.tx.rd = some v) : s.txWord = v := by
  unfold State.txWord TxBuffer.readWord
  rw [h]

/-- Before the last word the pointer moves up by one. -/
theorem advance_inside {t : TxBuffer} (h : t.rd + 1 ≠ (t.bank t.active).len) : t.advance = { t with rd := t.rd + 1 } :=
  if_neg h

/-- The pointer back at word 0, and the banks switched where a hand-off was pending. -/
def TxBuffer.wrap (t : TxBuffer) : TxBuffer :=
  { t with rd := 0, active := if t.pending then !t.active else t.active, pending := false }

/-- At the last word the pointer wraps, and only there. -/
theorem advance_last {t : TxBuffer} (h : t.rd + 1 = (t.bank t.active).len) : t.advance = t.wrap := by
  obtain ⟨bank0, bank1, active, pending, rd⟩ := t
  refine (if_pos h).trans ?_
  cases pending <;> rfl

/-- Without a pending hand-off the wrap only resets the pointer. -/
theorem wrap_of_not_pending {t : TxBuffer} (h : t.pending = false) : t.wrap = { t with rd := 0 } := by
  simp [TxBuffer.wrap, h]

/-- With a pending hand-off the wrap switches the banks. -/
theorem wrap_of_pending {t : TxBuffer} (h : t.pending = true) :
    t.wrap = { t with rd := 0, active := !t.active, pending := false } := by
  simp [TxBuffer.wrap, h]

/-- Settles O35: the three cases of the pointer, each an equation of POP. -/
theorem popReturnsTheWordAndAdvances : Obligations.PopReturnsTheWordAndAdvances := by
  unfold Obligations.PopReturnsTheWordAndAdvances
  intro s
  refine ⟨fun v => txWord_of_read, fun hinside => ?_, fun hlast hpending => ?_, fun hlast hpending => ?_⟩
  · rw [exec_pop, advance_inside hinside]; rfl
  · rw [exec_pop, advance_last hlast, wrap_of_not_pending hpending]; rfl
  · rw [exec_pop, advance_last hlast, wrap_of_pending hpending]; rfl

/-! ### Pops to the end of the sequence (R63, R68) -/

/-- The active bank's words from the pointer to its end are `vs`. -/
def TxBuffer.remaining (t : TxBuffer) (vs : List Word) : Prop :=
  t.rd + vs.length = (t.bank t.active).len ∧
    ∀ i (h : i < vs.length), (t.bank t.active).w.read (t.rd + i) = some vs[i]

/-- From word 0 the whole sequence remains. -/
theorem remaining_of_holds {t : TxBuffer} {seq : List Word} (h : (t.bank t.active).holds seq) (hrd : t.rd = 0) :
    t.remaining seq := by
  obtain ⟨hlen, hread⟩ := h
  unfold TxBuffer.remaining
  rw [hrd]
  exact ⟨by omega, fun i hi => by rw [Nat.zero_add]; exact hread i hi⟩

/-- The word shown is the first that remains. -/
theorem txWord_of_remaining {s : State} {v : Word} {vs : List Word} (h : s.tx.remaining (v :: vs)) : s.txWord = v :=
  txWord_of_read (h.2 0 (Nat.succ_pos _))

/-- Past one word that is not the last, the others remain. -/
theorem remaining_tail {t : TxBuffer} {v : Word} {vs : List Word} (h : t.remaining (v :: vs)) :
    ({ t with rd := t.rd + 1 } : TxBuffer).remaining vs := by
  obtain ⟨hlen, hread⟩ := h
  rw [List.length_cons] at hlen
  refine ⟨?_, fun i hi => ?_⟩
  · show t.rd + 1 + vs.length = (t.bank t.active).len
    omega
  · have hnext := hread (i + 1) (Nat.succ_lt_succ hi)
    rwa [show t.rd + (i + 1) = t.rd + 1 + i by omega] at hnext

/-- As many pops as words remain give those words and end with the wrap. -/
theorem execAll_pops {vs : List Word} (hne : vs ≠ []) {s : State} (h : s.tx.remaining vs) :
    execAll (List.replicate vs.length .pop) s = .next (afterPops vs s.tx.wrap s) := by
  induction vs generalizing s with
  | nil => exact absurd rfl hne
  | cons v vs ih =>
    have hlen := h.1
    rw [List.length_cons] at hlen
    rw [List.length_cons, List.replicate_succ, execAll, exec_pop, txWord_of_remaining h]
    rcases eq_or_ne vs [] with rfl | hvs
    · rw [advance_last hlen]
      rfl
    · have hpos := List.length_pos_iff.mpr hvs
      rw [advance_inside (by omega)]
      refine (ih hvs (remaining_tail h)).trans ?_
      rw [afterPops_afterPops]
      rfl

/-- Settles O36: from word 0 the whole sequence remains, so the pops give it and the last of them wraps. -/
theorem popsReturnTheWholeSequence : Obligations.PopsReturnTheWholeSequence := by
  unfold Obligations.PopsReturnTheWholeSequence
  intro s seq hne hholds hrd
  rw [execAll_pops hne (remaining_of_holds hholds hrd)]
  unfold afterPops TxBuffer.wrap
  rw [← hrd]

/-! ### What the consumer reads (R67, R225) -/

/-- A tick leaves the transmit banks or makes one hand-off (R223). -/
theorem tx_tick {s t : State} (h : tick s = .next t) : t.tx = s.tx ∨ ∃ seq, t.tx = s.tx.handoff seq := by
  rcases tick_cases h with ⟨-, rfl⟩ | ⟨-, -, seq, -, -, rfl⟩ | ⟨-, -, -, rfl⟩ | ⟨-, -, rfl⟩
  · exact .inr ⟨_, rfl⟩
  · exact .inr ⟨seq, rfl⟩
  · exact .inl rfl
  · exact .inl rfl

/-- Where a LOOP reaches the transmit banks have not changed. -/
theorem tx_loopReaches {s b : State} (hb : LoopReaches s b) : b.tx = s.tx := by
  cases hb <;> simp

/-- Everything an instruction can do to the transmit banks: nothing, a hand-off of LOOP, the advance of POP. -/
theorem tx_effect {i : Instr} {s t : State} (h : Effect s i t) :
    t.tx = s.tx ∨ (i = .loop ∧ ∃ seq, t.tx = s.tx.handoff seq) ∨ (i = .pop ∧ t.tx = s.tx.advance) := by
  cases h with
  | popped => exact .inr (.inr ⟨rfl, rfl⟩)
  | loopRaised k hb => exact .inl (by simpa using tx_loopReaches hb)
  | loopTripped hb => exact .inl (by simpa using tx_loopReaches hb)
  | loopTicked hb ht =>
    rw [← tx_loopReaches hb]
    exact (tx_tick ht).imp_right fun hseq => .inl ⟨rfl, hseq⟩
  | answered | created | driven | fnSet | poweredUp | powerUpTripped | poweredDown | deinited | estopped | loopHeld | emitted
  | badFrame => exact .inl (by simp)

theorem sameTransmit_of_eq {s t : State} (h : t.tx = s.tx) : sameTransmit s t := by
  unfold sameTransmit
  rw [h]
  exact ⟨rfl, rfl, rfl, fun _ => ⟨rfl, fun _ => rfl⟩⟩

/-- Settles O56: only LOOP and POP write the transmit banks, and a hand-off leaves what the consumer reads. -/
theorem commandsDoNotDisturbTheConsumer : Obligations.CommandsDoNotDisturbTheConsumer := by
  unfold Obligations.CommandsDoNotDisturbTheConsumer
  intro i s t h hpop
  rcases tx_effect (effect_of_exec h) with htx | ⟨hloop, seq, htx⟩ | ⟨hi, -⟩
  · exact ⟨fun _ => sameTransmit_of_eq htx, by rw [htx], by rw [htx], by rw [htx]⟩
  · refine ⟨fun hne => absurd hloop hne, ?_⟩
    rw [htx, handoff_active, handoff_rd, handoff_bank_active]
    exact ⟨rfl, rfl, rfl⟩
  · exact absurd hi hpop

/-! ### A held LOOP in a run (R73, R226, R358) -/

/-- A tick does not hold a LOOP, and lets none go. -/
theorem held_tick {s t : State} (h : tick s = .next t) : t.port.held = s.port.held := by
  rcases tick_cases h with ⟨-, rfl⟩ | ⟨-, -, _, -, -, rfl⟩ | ⟨-, -, -, rfl⟩ | ⟨-, -, rfl⟩ <;> rfl

/-- A LOOP that is not held when it runs is not held after it (R226). -/
theorem held_execLoop {s t : State} (hc : s.holdCond = false) (h : execLoop s = .next t) : t.port.held = false := by
  rcases execLoop_cases h with
    ⟨hc', -⟩ | ⟨-, ⟨-, rfl⟩ | ⟨-, -, rfl⟩ | ⟨-, -, -, -, rfl⟩ | ⟨-, -, -, -, ht⟩ | ⟨-, -, -, ht⟩⟩
  · rw [hc] at hc'; cases hc'
  · rfl
  · rfl
  · rfl
  · exact held_tick ht
  · exact held_tick ht

/-- A LOOP is held, and its hold has not lifted. -/
def State.waits (s : State) : Prop := s.port.held = true ∧ s.holdCond = true

/-- What is held waits for the consumer's switch (R226). -/
theorem pending_of_waits {s : State} (h : s.waits) : s.tx.pending = true := by
  obtain ⟨-, hc⟩ := h
  simp only [State.holdCond, Bool.and_eq_true] at hc
  obtain ⟨⟨-, hpending⟩, -⟩ := hc
  exact hpending

/-- A step while a LOOP waits resets the block, or keeps the LOOP held: it waits on and the banks stay, or the consumer
pops. -/
theorem step_of_waits {s t : State} (hr : s.env.rst = false) (hw : s.waits) (h : step s = .next t) :
    t.env.rst = true ∨ (¬ s.takesPop ∧ t.waits ∧ t.tx = s.tx) ∨
      (s.takesPop ∧ t.port.held = true ∧ t.tx = s.tx.advance) := by
  rcases step_while_held hr hw.1 hw.2 h with
    ⟨hpop, rfl⟩ | ⟨hpop, lvl, rest, rfl⟩ | ⟨hpop, rest, he⟩ | ⟨hpop, rest, e, rfl⟩
  · exact .inr (.inl ⟨hpop, hw, rfl⟩)
  · cases lvl
    · exact .inr (.inl ⟨hpop, hw, rfl⟩)
    · exact .inl rfl
  · injection he with he
    subst he
    exact .inr (.inr ⟨hpop, hw.1, rfl⟩)
  · exact .inr (.inl ⟨hpop, hw, rfl⟩)

section Run

variable {σ : Nat → State} {m : Nat}

/-- The same from one state of a run to the next: what the outside offers between them changes none of it. -/
theorem isRun_waits (hσ : isRun σ) (hr : (σ m).env.rst = false) (hr' : (σ (m + 1)).env.rst = false)
    (hw : (σ m).waits) :
    (¬ (σ m).takesPop ∧ (σ (m + 1)).waits ∧ (σ (m + 1)).tx = (σ m).tx) ∨
      ((σ m).takesPop ∧ (σ (m + 1)).port.held = true ∧ (σ (m + 1)).tx = (σ m).tx.advance) := by
  obtain ⟨t, l, a, b, hs, he⟩ := hσ m
  rw [he] at hr' ⊢
  rcases step_of_waits hr hw hs with hrst | hstay | hpop
  · exact absurd (hr'.symm.trans hrst) Bool.false_ne_true
  · exact .inl hstay
  · exact .inr hpop

/-- A held LOOP whose hold has lifted is run and is held no more. -/
theorem isRun_lifted (hσ : isRun σ) (hr : (σ m).env.rst = false) (hh : (σ m).port.held = true)
    (hc : (σ m).holdCond = false) : fetch (σ m) = .run .loop (σ m) ∧ (σ (m + 1)).port.held = false := by
  have hf := fetch_of_lifted hr hh hc
  obtain ⟨t, l, a, b, hs, he⟩ := hσ m
  have hrun : execLoop (σ m) = .next t := (step_of_fetch_run hf).symm.trans hs
  have hheld : t.port.held = false := held_execLoop hc hrun
  exact ⟨hf, by rwa [he]⟩

/-- The invariants of R36 hold along a run from where they hold. -/
theorem isRun_inv (hσ : isRun σ) {n : Nat} (hn : (σ n).inv) : ∀ m, n ≤ m → (σ m).inv :=
  isRun_keeps hσ stepKeepsTheStateInvariants (fun s _ _ _ => inv_of_eq (s := s) rfl rfl rfl) hn

/-- How many words the consumer is from its wrap. -/
def TxBuffer.popsLeft (t : TxBuffer) : Nat := (t.bank t.active).len - t.rd

/-- A pop that leaves the hand-off pending was not the last of the sequence, and brings the wrap nearer. -/
theorem popsLeft_advance_lt {t : TxBuffer} (hrd : t.rd < (t.bank t.active).len) (hp : t.pending = true)
    (hp' : t.advance.pending = true) : t.advance.popsLeft < t.popsLeft := by
  rcases advance_cases t with ⟨-, -, he⟩ | ⟨-, hp0, -⟩ | ⟨-, he⟩
  · rw [he] at hp'
    cases hp'
  · rw [hp] at hp0
    cases hp0
  · rw [he]
    show (t.bank t.active).len - (t.rd + 1) < (t.bank t.active).len - t.rd
    omega

/-- A sequence of numbers that never grows cannot fall again and again. -/
theorem false_of_descends {f : Nat → Nat} (hle : ∀ k, f (k + 1) ≤ f k) (hlt : ∀ k, ∃ j, k ≤ j ∧ f (j + 1) < f j) :
    False := by
  obtain ⟨j, hj, hfall⟩ := hlt (Function.argmin f)
  have hleast : f (Function.argmin f) ≤ f (j + 1) := Function.argmin_le f _
  have hbelow : f j ≤ f (Function.argmin f) := antitone_nat_of_succ_le hle hj
  omega

/-- Under weak fairness of `pop` no LOOP waits for ever: each pop brings the wrap nearer (R73). -/
theorem not_waits_forever (hσ : isRun σ) (hfair : fairPop σ) {n : Nat} (hinv : (σ n).inv)
    (hr : ∀ m, n ≤ m → (σ m).env.rst = false) (hw : ∀ m, n ≤ m → (σ m).waits) : False := by
  have hpop : ∀ m, n ≤ m → (σ m).takesPop → (σ (m + 1)).tx.popsLeft < (σ m).tx.popsLeft := by
    intro m hm htakes
    rcases isRun_waits hσ (hr m hm) (hr _ (by omega)) (hw m hm) with ⟨hnot, -⟩ | ⟨-, -, htx⟩
    · exact absurd htakes hnot
    · obtain ⟨-, -, -, -, hrd, -⟩ := isRun_inv hσ hinv m hm
      have hpending := pending_of_waits (hw (m + 1) (by omega))
      rw [htx] at hpending ⊢
      exact popsLeft_advance_lt hrd (pending_of_waits (hw m hm)) hpending
  apply false_of_descends (f := fun k => (σ (n + k)).tx.popsLeft)
  · intro k
    rcases isRun_waits hσ (hr (n + k) (by omega)) (hr _ (by omega)) (hw (n + k) (by omega)) with
      ⟨-, -, htx⟩ | ⟨htakes, -, -⟩
    · exact le_of_eq (congrArg TxBuffer.popsLeft htx)
    · exact (hpop (n + k) (by omega) htakes).le
  · intro k
    obtain ⟨m, hm, htakes⟩ := hfair (n + k) fun m hm => hr m (by omega)
    obtain ⟨j, rfl⟩ := Nat.exists_eq_add_of_le (show n ≤ m by omega)
    exact ⟨j, by omega, hpop (n + j) (by omega) htakes⟩

/-- With no reset, and no held LOOP that is run and let go, a held LOOP waits for ever. -/
theorem waits_of_never_runs (hσ : isRun σ) {n : Nat} (hr : ∀ m, n ≤ m → (σ m).env.rst = false)
    (hnever : ∀ m, n ≤ m → ¬ (fetch (σ m) = .run .loop (σ m) ∧ (σ (m + 1)).port.held = false))
    (hh : (σ n).port.held = true) : ∀ m, n ≤ m → (σ m).waits := by
  have hcond : ∀ m, n ≤ m → (σ m).port.held = true → (σ m).waits := by
    intro m hm hheld
    refine ⟨hheld, ?_⟩
    by_contra hc
    exact hnever m hm (isRun_lifted hσ (hr m hm) hheld (Bool.not_eq_true _ ▸ hc))
  intro m hm
  induction m, hm using Nat.le_induction with
  | base => exact hcond n le_rfl hh
  | succ m hm ih =>
    rcases isRun_waits hσ (hr m hm) (hr _ (by omega)) ih with ⟨-, hwaits, -⟩ | ⟨-, hheld, -⟩
    · exact hwaits
    · exact hcond _ (by omega) hheld

/-- With a stopped consumer and no reset a LOOP that waits does so for ever (R358). -/
theorem waits_of_no_pop (hσ : isRun σ) {n : Nat} (hstop : ∀ m, n ≤ m → (σ m).env.rst = false ∧ ¬ (σ m).takesPop)
    (hw : (σ n).waits) : ∀ m, n ≤ m → (σ m).waits := by
  intro m hm
  induction m, hm using Nat.le_induction with
  | base => exact hw
  | succ m hm ih =>
    obtain ⟨hr, hnopop⟩ := hstop m hm
    obtain ⟨hr', -⟩ := hstop (m + 1) (by omega)
    rcases isRun_waits hσ hr hr' ih with ⟨-, hwaits, -⟩ | ⟨htakes, -⟩
    · exact hwaits
    · exact absurd htakes hnopop

end Run

/-- Settles O10: a lifted LOOP is fetched before any input; were a held one never run nor reset, it would wait for ever,
which fair pops exclude and a stopped consumer brings about. -/
theorem heldLoopRunsWhenTheHoldLifts : Obligations.HeldLoopRunsWhenTheHoldLifts := by
  unfold Obligations.HeldLoopRunsWhenTheHoldLifts
  refine ⟨fun s hr hh hc => step_of_fetch_run (fetch_of_lifted hr hh hc), ?_, ?_⟩
  · intro σ n hσ hfair hinv hh
    by_contra hnone
    have hr : ∀ m, n ≤ m → (σ m).env.rst = false := fun m hm =>
      Bool.eq_false_iff.mpr fun hrst => hnone ⟨m, hm, .inl hrst⟩
    have hwaits := waits_of_never_runs hσ hr (fun m hm hrun => hnone ⟨m, hm, .inr hrun⟩) hh
    exact not_waits_forever hσ hfair hinv hr hwaits
  · exact fun σ n hσ hstop hh hc => waits_of_no_pop hσ hstop ⟨hh, hc⟩

end Sys2Proof.Machine
end

section
/-! SUPPORT. The statements of 30_encoding.md: decode and encode as inverses of each other (command words by the table of
R92, wire bytes by their patterns, packets by the round trip of R200 (d)), refused words, and the bytes of the wire patterns. -/

namespace Sys2Proof.Machine

/-! ### Fields of a command word (R90) -/

theorem getElem_fieldAt {n : Nat} (v : BitVec n) (lo : Nat) {i : Nat} (hi : i < 32) :
    (fieldAt v lo)[i] = (decide (lo ≤ i) && v.getLsbD (i - lo)) := by
  by_cases hlo : lo ≤ i
  · simp [fieldAt, hlo, Nat.not_lt.mpr hlo]
  · simp [fieldAt, hlo, Nat.not_le.mp hlo]

theorem fieldAt_zero (n lo : Nat) : fieldAt 0#n lo = 0#32 := by simp [fieldAt]

/-- A field that fits the word is read back from its place. -/
theorem extractLsb'_fieldAt {n : Nat} (v : BitVec n) {lo : Nat} (h : lo + n ≤ 32) :
    (fieldAt v lo).extractLsb' lo n = v := by
  refine BitVec.eq_of_getElem_eq fun i hi => ?_
  rw [BitVec.getElem_extractLsb', BitVec.getLsbD_eq_getElem (show lo + i < 32 by omega), getElem_fieldAt]
  simp [BitVec.getLsbD_eq_getElem hi]

/-- Elsewhere the word of a field is zero. -/
theorem extractLsb'_fieldAt_of_disjoint {n : Nat} (v : BitVec n) {lo start m : Nat} (hm : start + m ≤ 32)
    (h : start + m ≤ lo ∨ lo + n ≤ start) : (fieldAt v lo).extractLsb' start m = 0#m := by
  refine BitVec.eq_of_getElem_eq fun i hi => ?_
  rw [BitVec.getElem_extractLsb', BitVec.getLsbD_eq_getElem (show start + i < 32 by omega), getElem_fieldAt]
  rcases h with hbelow | habove
  · have hlo : ¬ lo ≤ start + i := by omega
    simp [hlo]
  · have hout : n ≤ start + i - lo := by omega
    simp [BitVec.getLsbD_of_ge _ _ hout]

/-- A field cut from a word and put back keeps the word's bits under the field's mask. -/
theorem fieldAt_extractLsb' (w : Word) (lo n : Nat) :
    fieldAt (w.extractLsb' lo n) lo = w &&& fieldAt (BitVec.allOnes n) lo := by
  refine BitVec.eq_of_getElem_eq fun i hi => ?_
  rw [BitVec.getElem_and, getElem_fieldAt, getElem_fieldAt]
  by_cases hlo : lo ≤ i
  · simp [hlo, Nat.add_sub_cancel' hlo, Bool.and_comm, hi]
  · simp [hlo]

/-- One bit of a word is a field of width 1. -/
theorem bit1_getLsbD (w : Word) (i : Nat) : bit1 (w.getLsbD i) = w.extractLsb' i 1 := by
  refine BitVec.eq_of_getElem_eq fun j hj => ?_
  obtain rfl : j = 0 := by omega
  simp [bit1]

/-- A word is its row's fixed bits and its bits under the operands' mask. -/
theorem eq_of_rowMatches {w pat mask operands : Word} (h : rowMatches w pat mask = true)
    (hall : mask ||| operands = BitVec.allOnes 32) : pat ||| (w &&& operands) = w := by
  have hpat : w &&& mask = pat := by simpa [rowMatches] using h
  rw [← hpat, ← BitVec.and_or_distrib_left, hall, BitVec.and_allOnes]

/-! ### The decoder of command words as the table of R92 -/

/-- A row of R92: its fixed bits, its mask, and the instruction it reads from a word. -/
structure CmdRow where
  pat : Word
  mask : Word
  read : Word → Instr

/-- CREATE (R93). -/
def createRow : CmdRow :=
  ⟨0x10000000#32, 0xFFFE0000#32, fun w => .create (w.extractLsb' 0 14) (w.getLsbD 14) (w.extractLsb' 15 2)⟩

/-- DRIVE (R94). -/
def driveRow : CmdRow :=
  ⟨0x20000000#32, 0xF00FFE00#32, fun w => .drive (w.extractLsb' 20 8) (w.getLsbD 8) (w.extractLsb' 0 8)⟩

/-- SET_FN (R95). -/
def setFnRow : CmdRow :=
  ⟨0x30000000#32, 0xF00FFEE0#32, fun w => .setFn (w.extractLsb' 20 8) (w.extractLsb' 0 5) (w.getLsbD 8)⟩

/-- GET_FN (R95). -/
def getFnRow : CmdRow := ⟨0x40000000#32, 0xF00FFFE0#32, fun w => .getFn (w.extractLsb' 20 8) (w.extractLsb' 0 5)⟩

/-- The row of a command without operands (R96). -/
def plainRow (op : BitVec 4) (i : Instr) : CmdRow := ⟨fieldAt op 28, 0xFFFFFFFF#32, fun _ => i⟩

/-- The row of a reserved opcode (R99). -/
def reservedRow (op : BitVec 4) (read : BitVec 28 → Instr) : CmdRow :=
  ⟨fieldAt op 28, 0xF0000000#32, fun w => read (w.extractLsb' 0 28)⟩

/-- The rows of R92, in the decoder's order. -/
def cmdRows : List CmdRow :=
  [createRow, driveRow, setFnRow, getFnRow,
   plainRow 0x5#4 .beginCmd, plainRow 0x6#4 .deinit, plainRow 0x7#4 .loop, plainRow 0x8#4 .estop,
   plainRow 0x9#4 .powerOn, plainRow 0xA#4 .powerOff,
   reservedRow 0x0#4 .reservedOp0, reservedRow 0xB#4 .reservedOpB, reservedRow 0xC#4 .reservedOpC,
   reservedRow 0xD#4 .reservedOpD, reservedRow 0xE#4 .reservedOpE, reservedRow 0xF#4 .reservedOpF]

/-- What the first of the rows that a word matches reads from it. -/
def firstRow (w : Word) : List CmdRow → Except DecodeError Instr
  | [] => .error .strayBits
  | r :: rs => if rowMatches w r.pat r.mask then .ok (r.read w) else firstRow w rs

/-- The decoder of command words is the table of R92. -/
theorem decodeCmd_eq_firstRow (w : Word) : decodeCmd w = firstRow w cmdRows := rfl

/-- A row's opcode (R90). -/
def CmdRow.op (r : CmdRow) : BitVec 4 := r.pat.extractLsb' 28 4

theorem cmdRows_ops_nodup : (cmdRows.map CmdRow.op).Nodup := by decide

theorem cmdRows_masks_cover_op : ∀ r ∈ cmdRows, r.mask.extractLsb' 28 4 = 0xF#4 := by decide

/-- Where the opcodes of the rows differ, the row that a word matches is the one that reads it. -/
theorem firstRow_of_mem {w : Word} {rows : List CmdRow} {r : CmdRow} (hops : (rows.map CmdRow.op).Nodup)
    (hmasks : ∀ r ∈ rows, r.mask.extractLsb' 28 4 = 0xF#4) (hr : r ∈ rows) (hw : rowMatches w r.pat r.mask = true) :
    firstRow w rows = .ok (r.read w) := by
  induction rows with
  | nil => cases hr
  | cons r' rows ih =>
    obtain ⟨hnotin, hops'⟩ := List.nodup_cons.mp hops
    rcases List.mem_cons.mp hr with rfl | hr'
    · exact if_pos hw
    · have hother : ¬ rowMatches w r'.pat r'.mask = true := fun hw' => by
        have hop : r'.op = r.op :=
          (op_of_rowMatches hw' (hmasks r' List.mem_cons_self)).symm.trans (op_of_rowMatches hw (hmasks r hr))
        exact hnotin (hop ▸ List.mem_map_of_mem hr')
      exact (if_neg hother).trans (ih hops' (fun q hq => hmasks q (List.mem_cons_of_mem _ hq)) hr')

/-- What the rows read comes from a row that the word matches. -/
theorem mem_of_firstRow {w : Word} {rows : List CmdRow} {i : Instr} (h : firstRow w rows = .ok i) :
    ∃ r ∈ rows, rowMatches w r.pat r.mask = true ∧ r.read w = i := by
  induction rows with
  | nil => cases h
  | cons r rows ih =>
    by_cases hw : rowMatches w r.pat r.mask = true
    · exact ⟨r, List.mem_cons_self, hw, Except.ok.inj ((if_pos hw).symm.trans h)⟩
    · obtain ⟨q, hq, hqw⟩ := ih ((if_neg hw).symm.trans h)
      exact ⟨q, List.mem_cons_of_mem _ hq, hqw⟩

/-- A word that matches a row of R92 decodes as the row reads it. -/
theorem decodeCmd_of_row {w : Word} {r : CmdRow} (hr : r ∈ cmdRows) (hw : rowMatches w r.pat r.mask = true) :
    decodeCmd w = .ok (r.read w) :=
  firstRow_of_mem cmdRows_ops_nodup cmdRows_masks_cover_op hr hw

/-! ### Command words: reading what was written -/

theorem createRow_read (a : BitVec 14) (l : Bool) (m : BitVec 2) :
    createRow.read (cmdWord 0x1#4 0#8 (fieldAt m 15 ||| fieldAt (bit1 l) 14 ||| fieldAt a 0)) = .create a l m := by
  simp (disch := omega) [createRow, cmdWord, BitVec.extractLsb'_or, extractLsb'_fieldAt,
    extractLsb'_fieldAt_of_disjoint, getElem_fieldAt, bit1]

theorem driveRow_read (h : BitVec 8) (d : Bool) (v : BitVec 8) :
    driveRow.read (cmdWord 0x2#4 h (fieldAt (bit1 d) 8 ||| fieldAt v 0)) = .drive h d v := by
  simp (disch := omega) [driveRow, cmdWord, BitVec.extractLsb'_or, extractLsb'_fieldAt,
    extractLsb'_fieldAt_of_disjoint, getElem_fieldAt, bit1]

theorem setFnRow_read (h : BitVec 8) (f : BitVec 5) (v : Bool) :
    setFnRow.read (cmdWord 0x3#4 h (fieldAt (bit1 v) 8 ||| fieldAt f 0)) = .setFn h f v := by
  simp (disch := omega) [setFnRow, cmdWord, BitVec.extractLsb'_or, extractLsb'_fieldAt,
    extractLsb'_fieldAt_of_disjoint, getElem_fieldAt, bit1]

theorem getFnRow_read (h : BitVec 8) (f : BitVec 5) : getFnRow.read (cmdWord 0x4#4 h (fieldAt f 0)) = .getFn h f := by
  simp (disch := omega) [getFnRow, cmdWord, BitVec.extractLsb'_or, extractLsb'_fieldAt,
    extractLsb'_fieldAt_of_disjoint]

/-- A reserved word is read back, whatever its 28 bits (R99 (a)). -/
theorem decodeCmd_reserved {op : BitVec 4} {read : BitVec 28 → Instr} (hr : reservedRow op read ∈ cmdRows)
    (a : BitVec 28) : decodeCmd (fieldAt op 28 ||| fieldAt a 0) = .ok (read a) := by
  rw [decodeCmd_of_row hr (reserved_row op a)]
  simp (disch := omega) [reservedRow, BitVec.extractLsb'_or, extractLsb'_fieldAt, extractLsb'_fieldAt_of_disjoint]

/-- The decoder reads back every instruction that is a command word (R92). -/
theorem decodeCmd_of_encode {i : Instr} {w : Word} (h : encode i = .cmd w) : decodeCmd w = .ok i := by
  cases i with
  | create a l m =>
    cases h
    rw [decodeCmd_of_row (r := createRow) (by simp [cmdRows]) (create_row a l m), createRow_read]
  | drive r d v =>
    cases h
    rw [decodeCmd_of_row (r := driveRow) (by simp [cmdRows]) (drive_row r d v), driveRow_read]
  | setFn r f v =>
    cases h
    rw [decodeCmd_of_row (r := setFnRow) (by simp [cmdRows]) (setFn_row r f v), setFnRow_read]
  | getFn r f =>
    cases h
    rw [decodeCmd_of_row (r := getFnRow) (by simp [cmdRows]) (getFn_row r f), getFnRow_read]
  | beginCmd | deinit | loop | estop | powerOn | powerOff => cases h; rfl
  | reservedOp0 a | reservedOpB a | reservedOpC a | reservedOpD a | reservedOpE a | reservedOpF a =>
    cases h
    exact decodeCmd_reserved (by simp [cmdRows]) a
  | _ => cases h

/-! ### Command words: writing what was read -/

theorem createRow_write {w : Word} (h : rowMatches w createRow.pat createRow.mask = true) :
    encode (createRow.read w) = .cmd w := by
  refine congrArg Input.cmd ?_
  simp only [cmdWord, fieldAt_zero, fieldAt_extractLsb', bit1_getLsbD, ← BitVec.and_or_distrib_left, BitVec.or_zero]
  exact eq_of_rowMatches h (by decide)

theorem driveRow_write {w : Word} (h : rowMatches w driveRow.pat driveRow.mask = true) :
    encode (driveRow.read w) = .cmd w := by
  refine congrArg Input.cmd ?_
  simp only [cmdWord, fieldAt_extractLsb', bit1_getLsbD, ← BitVec.and_or_distrib_left, BitVec.or_assoc]
  exact eq_of_rowMatches h (by decide)

theorem setFnRow_write {w : Word} (h : rowMatches w setFnRow.pat setFnRow.mask = true) :
    encode (setFnRow.read w) = .cmd w := by
  refine congrArg Input.cmd ?_
  simp only [cmdWord, fieldAt_extractLsb', bit1_getLsbD, ← BitVec.and_or_distrib_left, BitVec.or_assoc]
  exact eq_of_rowMatches h (by decide)

theorem getFnRow_write {w : Word} (h : rowMatches w getFnRow.pat getFnRow.mask = true) :
    encode (getFnRow.read w) = .cmd w := by
  refine congrArg Input.cmd ?_
  simp only [cmdWord, fieldAt_extractLsb', ← BitVec.and_or_distrib_left, BitVec.or_assoc]
  exact eq_of_rowMatches h (by decide)

theorem plainRow_write {op : BitVec 4} {i : Instr} (hi : encode i = .cmd (fieldAt op 28)) {w : Word}
    (h : rowMatches w (plainRow op i).pat (plainRow op i).mask = true) : encode ((plainRow op i).read w) = .cmd w := by
  have hw := eq_of_rowMatches h (operands := 0#32) (by decide : 0xFFFFFFFF#32 ||| 0#32 = BitVec.allOnes 32)
  rw [BitVec.and_zero, BitVec.or_zero] at hw
  exact hi.trans (congrArg Input.cmd hw)

theorem reservedRow_write {op : BitVec 4} {read : BitVec 28 → Instr}
    (hread : ∀ a, encode (read a) = .cmd (fieldAt op 28 ||| fieldAt a 0)) {w : Word}
    (h : rowMatches w (reservedRow op read).pat (reservedRow op read).mask = true) :
    encode ((reservedRow op read).read w) = .cmd w := by
  refine (hread _).trans (congrArg Input.cmd ?_)
  rw [fieldAt_extractLsb']
  exact eq_of_rowMatches h (by decide : 0xF0000000#32 ||| fieldAt (BitVec.allOnes 28) 0 = BitVec.allOnes 32)

/-- Every row of R92 writes back what it reads. -/
theorem cmdRows_write : ∀ r ∈ cmdRows, ∀ {w : Word}, rowMatches w r.pat r.mask = true → encode (r.read w) = .cmd w := by
  simp only [cmdRows, List.forall_mem_cons]
  refine ⟨createRow_write, driveRow_write, setFnRow_write, getFnRow_write, plainRow_write rfl, plainRow_write rfl,
    plainRow_write rfl, plainRow_write rfl, plainRow_write rfl, plainRow_write rfl, ?_⟩
  exact ⟨reservedRow_write fun _ => rfl, reservedRow_write fun _ => rfl, reservedRow_write fun _ => rfl,
    reservedRow_write fun _ => rfl, reservedRow_write fun _ => rfl, reservedRow_write fun _ => rfl, by simp⟩

/-- A command word that decodes is written back. -/
theorem encode_of_decodeCmd {w : Word} {i : Instr} (h : decodeCmd w = .ok i) : encode i = .cmd w := by
  rw [decodeCmd_eq_firstRow] at h
  obtain ⟨r, hr, hw, rfl⟩ := mem_of_firstRow h
  exact cmdRows_write r hr hw

/-! ### Wire bytes: reading what was written (R103 to R106) -/

theorem decodeAddress_short (a : BitVec 7) : decodeAddress [shortAddrByte a] = .ok (.wireAddrShort a) := by
  revert a; decide

theorem longAddrByte_fields (a : BitVec 6) :
    (0xC0#8 ||| byteField a 0).extractLsb' 6 2 = 0b11#2 ∧ (0xC0#8 ||| byteField a 0).extractLsb' 0 6 = a := by
  revert a; decide

theorem decodeAddress_long (a : BitVec 14) : decodeAddress (longAddrBytes a) = .ok (.wireAddrLong a) := by
  obtain ⟨htop, hlow⟩ := longAddrByte_fields (a.extractLsb' 8 6)
  have hjoin : a.extractLsb' 8 6 ++ a.extractLsb' 0 8 = a :=
    (BitVec.extractLsb'_append_extractLsb'_eq_extractLsb' rfl).trans BitVec.extractLsb'_eq_self
  simp only [longAddrBytes, decodeAddress, htop, hlow, hjoin, if_true]

theorem decodeCommand_speed128 (d : Bool) (s : BitVec 7) :
    decodeCommand (speed128Bytes d s) = .ok (.wireSpeed128 d s) := by
  revert d s; decide

theorem decodeCommand_speed28 (d c : Bool) (s : BitVec 4) :
    decodeCommand [speed28Byte d c s] = .ok (.wireSpeed28 d c s) := by
  revert d c s; decide

theorem decodeCommand_fnGroup0 (f : BitVec 5) : decodeCommand [fnGroup0Byte f] = .ok (.wireFnGroup0 f) := by
  revert f; decide

theorem decodeCommand_fnGroup1 (f : BitVec 4) : decodeCommand [fnGroup1Byte f] = .ok (.wireFnGroup1 f) := by
  revert f; decide

theorem decodeCommand_fnGroup2 (f : BitVec 4) : decodeCommand [fnGroup2Byte f] = .ok (.wireFnGroup2 f) := by
  revert f; decide

/-! ### Wire bytes: writing what was read (R103 to R108) -/

theorem shortAddrByte_of_fields {b : Byte} (h : b.getLsbD 7 = false) : shortAddrByte (b.extractLsb' 0 7) = b := by
  revert b; decide

theorem longAddrByte_of_fields {b : Byte} (h : b.extractLsb' 6 2 = 0b11#2) :
    0xC0#8 ||| byteField (b.extractLsb' 0 6) 0 = b := by
  revert b; decide

theorem longAddrBytes_of_fields {a : Byte} (h : a.extractLsb' 6 2 = 0b11#2) (b : Byte) :
    longAddrBytes (a.extractLsb' 0 6 ++ b) = [a, b] := by
  have hhigh : (a.extractLsb' 0 6 ++ b).extractLsb' 8 6 = a.extractLsb' 0 6 := BitVec.extractLsb'_append_eq_left
  have hlow : (a.extractLsb' 0 6 ++ b).extractLsb' 0 8 = b := BitVec.extractLsb'_append_eq_right
  rw [longAddrBytes, hhigh, hlow, longAddrByte_of_fields h]

theorem speed28Byte_of_fields {b : Byte} (h : b.extractLsb' 6 2 = 0b01#2) :
    speed28Byte (b.getLsbD 5) (b.getLsbD 4) (b.extractLsb' 0 4) = b := by
  revert b; decide

theorem fnGroup0Byte_of_fields {b : Byte} (h : b.extractLsb' 5 3 = 0b100#3) : fnGroup0Byte (b.extractLsb' 0 5) = b := by
  revert b; decide

theorem fnGroup1Byte_of_fields {b : Byte} (h : b.extractLsb' 4 4 = 0b1011#4) : fnGroup1Byte (b.extractLsb' 0 4) = b := by
  revert b; decide

theorem fnGroup2Byte_of_fields {b : Byte} (h : b.extractLsb' 4 4 = 0b1010#4) : fnGroup2Byte (b.extractLsb' 0 4) = b := by
  revert b; decide

theorem speed128Bytes_of_fields (b : Byte) : speed128Bytes (b.getLsbD 7) (b.extractLsb' 0 7) = [0x3F#8, b] := by
  revert b; decide

/-- An alternative of the decoder and what comes after it write back what they read. -/
theorem encode_of_ite {c : Prop} [Decidable c] {j i : Instr} {e : Except DecodeError Instr} {n : Input}
    (hj : c → encode j = n) (he : e = .ok i → encode i = n) (h : (if c then .ok j else e) = .ok i) : encode i = n := by
  by_cases hc : c
  · exact Except.ok.inj ((if_pos hc).symm.trans h) ▸ hj hc
  · exact he ((if_neg hc).symm.trans h)

/-- The decoder's last alternative answers no instruction. -/
theorem encode_of_error {e : DecodeError} {i : Instr} {n : Input} (h : Except.error e = Except.ok i) : encode i = n :=
  nomatch h

theorem encode_of_decodeAddress {bs : List Byte} {i : Instr} (h : decodeAddress bs = .ok i) :
    encode i = .wire .address bs := by
  revert h
  match bs with
  | [a] => exact encode_of_ite (fun ha => by rw [encode, shortAddrByte_of_fields ha]) encode_of_error
  | [a, b] => exact encode_of_ite (fun ha => by rw [encode, longAddrBytes_of_fields ha]) encode_of_error
  | [] | _ :: _ :: _ :: _ => exact encode_of_error

theorem encode_of_decodeCommand {bs : List Byte} {i : Instr} (h : decodeCommand bs = .ok i) :
    encode i = .wire .command bs := by
  revert h
  match bs with
  | [b] =>
    refine encode_of_ite (fun hb => by rw [encode, speed28Byte_of_fields hb]) ?_
    refine encode_of_ite (fun hb => by rw [encode, fnGroup0Byte_of_fields hb]) ?_
    refine encode_of_ite (fun hb => by rw [encode, fnGroup1Byte_of_fields hb]) ?_
    exact encode_of_ite (fun hb => by rw [encode, fnGroup2Byte_of_fields hb]) encode_of_error
  | [a, b] => exact encode_of_ite (fun ha => by rw [encode, speed128Bytes_of_fields, ha]) encode_of_error
  | [] | _ :: _ :: _ :: _ => exact encode_of_error

theorem encode_of_decodeWhole {bs : List Byte} {i : Instr} (h : decodeWhole bs = .ok i) :
    encode i = .wire .whole bs := by
  revert h
  refine encode_of_ite (fun hb => by rw [hb]; rfl) ?_
  exact encode_of_ite (fun hb => by rw [hb]; rfl) encode_of_error

/-! ### Packets (R193 to R195, R200) -/

theorem wordOfBits_concat (bits : List Bool) (b : Bool) :
    wordOfBits (bits ++ [b]) = wordOfBits bits <<< 1 ||| (bit1 b).setWidth 32 := by
  simp [wordOfBits]

/-- Bit `i` of a word is the `i`-th bit from the end of the bits it was made of (R195). -/
theorem getLsbD_wordOfBits (bits : List Bool) {i : Nat} (hi : i < 32) :
    (wordOfBits bits).getLsbD i = bits.reverse.getD i false := by
  induction bits using List.reverseRecOn generalizing i with
  | nil => simp [wordOfBits]
  | append_singleton bits b ih =>
    rw [wordOfBits_concat]
    cases i with
    | zero => simp [bit1]
    | succ i =>
      have hbit := ih (show i < 32 by omega)
      simpa [bit1, hi, BitVec.getLsbD_eq_getElem (show i < 32 by omega)] using hbit

/-- A word shows the 32 bits it was made of, in their order (R61, R195). -/
theorem wordBits_wordOfBits {bits : List Bool} (h : bits.length = 32) : wordBits (wordOfBits bits) = bits := by
  refine List.ext_getElem (by simp [wordBits, h]) fun j hj hj' => ?_
  have hr : 31 - j < bits.reverse.length := by simp; omega
  have hindex : bits.length - 1 - (31 - j) = j := by omega
  simp only [wordBits, List.getElem_map, List.getElem_range]
  rw [getLsbD_wordOfBits bits (by omega), List.getD_eq_getElem _ _ hr, List.getElem_reverse]
  simp only [hindex]

/-- The first `n` pieces of 32 bits, one after another, are the first `32 n` bits. -/
theorem flatMap_pieces (bits : List Bool) (n : Nat) :
    (List.range n).flatMap (fun k => (bits.drop (32 * k)).take 32) = bits.take (32 * n) := by
  induction n with
  | zero => simp
  | succ n ih => rw [List.range_succ, List.flatMap_append, ih, Nat.mul_succ, List.take_add]; simp

/-- The bits of the packed words are the bits that were packed, where they fill whole words (R195). -/
theorem flatMap_wordBits_packWords {bits : List Bool} (h : 32 ∣ bits.length) :
    (packWords bits).flatMap wordBits = bits := by
  have hpiece : ∀ k ∈ List.range (bits.length / 32),
      wordBits (wordOfBits ((bits.drop (32 * k)).take 32)) = (bits.drop (32 * k)).take 32 := by
    intro k hk
    have hk := List.mem_range.mp hk
    exact wordBits_wordOfBits (by simp only [List.length_take, List.length_drop]; omega)
  rw [packWords, List.flatMap_map, List.flatMap_congr hpiece, flatMap_pieces, Nat.mul_div_cancel' h, List.take_length]

/-- A frame fills whole words (R194). -/
theorem frameBits_aligned (bs : List Byte) : 32 ∣ (frameBits bs).length := by
  rw [frameBits_length, padLen]; omega

/-- Before the first byte of a frame stands nothing but ones (R193). -/
theorem dropWhile_frameBits {bs : List Byte} (h : bs ≠ []) :
    (frameBits bs).dropWhile id = bs.flatMap (fun b => false :: byteBits b) ++ [true] := by
  obtain ⟨b, bs, rfl⟩ := List.exists_cons_of_ne_nil h
  rw [frameBits, frameBitsWith, List.append_assoc, List.dropWhile_append_of_pos (by simp)]
  rfl

/-- A byte is put together again from its bits, bit 7 first (R193). -/
theorem byte_of_byteBits (b : Byte) :
    bit1 (b.getLsbD 7) ++ bit1 (b.getLsbD 6) ++ bit1 (b.getLsbD 5) ++ bit1 (b.getLsbD 4) ++ bit1 (b.getLsbD 3) ++
      bit1 (b.getLsbD 2) ++ bit1 (b.getLsbD 1) ++ bit1 (b.getLsbD 0) = b := by
  revert b; decide

/-- A start bit and 8 data bits are read as a byte (R200 (d)). -/
theorem readFrameBytes_byte (b : Byte) (rest : List Bool) :
    readFrameBytes ((false :: byteBits b) ++ rest) = (readFrameBytes rest).map (b :: ·) := by
  simp only [byteBits, List.cons_append, List.nil_append, readFrameBytes, byte_of_byteBits]

/-- The bytes after the preamble are read back up to the stop bit (R200 (d)). -/
theorem readFrameBytes_frame (bs : List Byte) :
    readFrameBytes (bs.flatMap (fun b => false :: byteBits b) ++ [true]) = some bs := by
  induction bs with
  | nil => rfl
  | cons b bs ih => rw [List.flatMap_cons, List.append_assoc, readFrameBytes_byte, ih, Option.map_some]

/-- The words of a packet carry its Instruction and the checksum (R190, R200 (d)). -/
theorem readFrameBytes_packetWords (bs : List Byte) :
    readFrameBytes (((packetWords bs).flatMap wordBits).dropWhile id) = some (bs ++ [checksum bs]) := by
  rw [packetWords, flatMap_wordBits_packWords (frameBits_aligned _), dropWhile_frameBits (by simp), readFrameBytes_frame]

/-- The round trip of R200 (d): the words of a legal Instruction carry that Instruction. -/
theorem unframe_packetWords {bs : List Byte} (h : legalLength bs.length = true) : unframe (packetWords bs) = some bs := by
  simp [unframe, readFrameBytes_packetWords, framePacket, h]

/-- What the decoder reads from a packet is the Instruction that the words carry. -/
theorem decodeFrame_ok_iff {ws : List Word} {i : Instr} :
    decodeFrame ws = .ok i ↔ ∃ bs, unframe ws = some bs ∧ i = .wirePacket bs := by
  unfold decodeFrame
  cases unframe ws <;> simp [eq_comm]

/-! ### Decode and encode -/

/-- The decoder reads back every instruction that an encoding expresses. -/
theorem decode_encode {i : Instr} (hwf : i.wf = true) : decode (encode i) = .ok i := by
  cases i with
  | create | drive | setFn | getFn | beginCmd | deinit | loop | estop | powerOn | powerOff | reservedOp0 | reservedOpB
  | reservedOpC | reservedOpD | reservedOpE | reservedOpF => exact decodeCmd_of_encode rfl
  | wireAddrShort a => exact decodeAddress_short a
  | wireAddrLong a => exact decodeAddress_long a
  | wireSpeed128 d s => exact decodeCommand_speed128 d s
  | wireSpeed28 d c s => exact decodeCommand_speed28 d c s
  | wireFnGroup0 f => exact decodeCommand_fnGroup0 f
  | wireFnGroup1 f => exact decodeCommand_fnGroup1 f
  | wireFnGroup2 f => exact decodeCommand_fnGroup2 f
  | wireIdle | wireBroadcastEstop | pop => rfl
  | wirePacket bs => exact decodeFrame_ok_iff.mpr ⟨bs, unframe_packetWords hwf, rfl⟩

/-- What the decoder reads is written back, at every interface. -/
theorem encode_of_decode {n : Input} {i : Instr} (h : decode n = .ok i) : encode i = n := by
  cases n with
  | cmd w => exact encode_of_decodeCmd h
  | pop => cases h; rfl
  | rst level => cases h
  | wire p bs =>
    cases p with
    | address => exact encode_of_decodeAddress h
    | command => exact encode_of_decodeCommand h
    | whole => exact encode_of_decodeWhole h
  | frame ws =>
    obtain ⟨bs, hbs, rfl⟩ := decodeFrame_ok_iff.mp h
    exact congrArg Input.frame (packetWords_of_unframe hbs).2

/-- Settles O5: by the rows of the opcode table. -/
theorem decodeOfEncodeIsTheInstruction : Obligations.DecodeOfEncodeIsTheInstruction := by
  unfold Obligations.DecodeOfEncodeIsTheInstruction
  exact fun _ hwf => decode_encode hwf

/-- Settles O6: by the interface at which the input arrives. -/
theorem encodeOfDecodeIsTheInput : Obligations.EncodeOfDecodeIsTheInput := by
  unfold Obligations.EncodeOfDecodeIsTheInput
  exact fun _ _ h => ⟨wf_of_decode h, encode_of_decode h⟩

/-- What an instruction is encoded to decodes to it. -/
theorem decode_of_encode_eq {i : Instr} {n : Input} (hn : encode i = n) (hwf : i.wf = true) : decode n = .ok i :=
  hn ▸ decode_encode hwf

/-- Settles O7: each sample is the encoding of its instruction, and the stray bit fits no row. -/
theorem sampleWordsDecode : Obligations.SampleWordsDecode := by
  unfold Obligations.SampleWordsDecode
  have hpacket : encode (.wirePacket [0x03#8, 0x3F#8, 0xB4#8]) = .frame [0xFFFFFFE0#32, 0x31FAD111#32] := by
    decide +kernel
  exact ⟨decode_of_encode_eq (by decide) rfl, decode_of_encode_eq (by decide) rfl, decode_of_encode_eq (by decide) rfl,
    decode_of_encode_eq (by decide) rfl, decode_of_encode_eq (by decide) rfl, by decide,
    decode_of_encode_eq (by decide) rfl, decode_of_encode_eq (by decide) rfl, decode_of_encode_eq (by decide) rfl,
    decode_of_encode_eq (by decide) rfl, decode_of_encode_eq rfl rfl, decode_of_encode_eq hpacket rfl, rfl⟩

/-! ### Refused words (R99, R307) -/

/-- A refusal is the response CmdRefused with value 0, and nothing else (R97, R307). -/
theorem refuse_eq_answered (s : State) : refuse s = answered 0xF#4 0#8 s := rfl

/-- A command word that is no command is over with its refusal (R99 (b)). -/
theorem runInput_of_stray {w : Word} {e : DecodeError} (h : decode (.cmd w) = .error e) (s : State) :
    runInput (.cmd w) s = .settled (refuse s) := by
  simp only [runInput, h]

/-- What the fetch has settled is the step. -/
theorem step_of_fetch_settled {s t : State} (h : fetch s = .settled t) : step s = .next t := by
  unfold step
  rw [h]

/-- Settles O9: the fetch takes the word and settles it with a refusal. -/
theorem strayWordIsRefused : Obligations.StrayWordIsRefused := by
  unfold Obligations.StrayWordIsRefused
  intro s w rest e hr hh hi hd
  exact step_of_fetch_settled ((fetch_of_ready hr hh hi).trans (runInput_of_stray hd _))

/-- Settles O37: each of the six rows means a refusal. -/
theorem reservedOpcodesAreRefused : Obligations.ReservedOpcodesAreRefused := by
  unfold Obligations.ReservedOpcodesAreRefused
  intro _ s
  have hrefused := congrArg (Host.Outcome.next (φ := Fault) (ρ := Refusal)) (refuse_eq_answered s)
  exact ⟨hrefused, hrefused, hrefused, hrefused, hrefused, hrefused⟩

/-! ### The bytes of the wire patterns, bit for bit (R103 to R106) -/

theorem shortAddrByte_eq (a : BitVec 7) : shortAddrByte a = 0#1 ++ a := by revert a; decide

theorem longAddrBytes_eq (a : BitVec 14) : longAddrBytes a = [0xC0#8 ||| (a >>> 8).setWidth 8, a.setWidth 8] := by
  have hhigh : byteField (a.extractLsb' 8 6) 0 = (a >>> 8).setWidth 8 := by
    refine BitVec.eq_of_getLsbD_eq fun i hi => ?_
    have hinside : a.getLsbD (8 + i) = true → i < 6 := fun hbit => by
      have := BitVec.lt_of_getLsbD hbit
      omega
    simpa [byteField, hi] using hinside
  have hlow : a.extractLsb' 0 8 = a.setWidth 8 := (BitVec.setWidth_eq_extractLsb' (by omega)).symm
  rw [longAddrBytes, hhigh, hlow]

theorem speed128Bytes_eq (d : Bool) (s : BitVec 7) : speed128Bytes d s = [0x3F#8, BitVec.ofBool d ++ s] := by
  revert d s; decide

theorem speed28Byte_eq (d c : Bool) (s : BitVec 4) :
    speed28Byte d c s = 0b01#2 ++ BitVec.ofBool d ++ BitVec.ofBool c ++ s := by
  revert d c s; decide

theorem fnGroup0Byte_eq (f : BitVec 5) : fnGroup0Byte f = 0b100#3 ++ f := by revert f; decide

theorem fnGroup1Byte_eq (f : BitVec 4) : fnGroup1Byte f = 0b1011#4 ++ f := by revert f; decide

theorem fnGroup2Byte_eq (f : BitVec 4) : fnGroup2Byte f = 0b1010#4 ++ f := by revert f; decide

/-- Settles O38: each row emits its bytes, which are its pattern. -/
theorem wirePatternsEmitTheirBytes : Obligations.WirePatternsEmitTheirBytes := by
  unfold Obligations.WirePatternsEmitTheirBytes
  intro s a7 a d c s7 s4 f5 f4
  rw [← shortAddrByte_eq, ← longAddrBytes_eq, ← speed128Bytes_eq, ← speed28Byte_eq, ← fnGroup0Byte_eq,
    ← fnGroup1Byte_eq, ← fnGroup2Byte_eq]
  exact ⟨rfl, rfl, rfl, rfl, rfl, rfl, rfl⟩

end Sys2Proof.Machine
end

section
/-! SUPPORT. The statements of 40_speed_step_coder.md: the byte of `encode128` as its direction bit and its code, and
`encode28` as its table at the clamped speed. -/

namespace Sys2Proof.Machine

/-! ### encode128 (R131) -/

/-- The 7-bit code of a speed in 128 steps, by the ranges of R131. -/
def speed128Code (n : Int) : Nat :=
  if n < 0 then 1 else if n = 0 then 0 else if n < 126 then 2 * ((n.toNat + 2) / 2) else 126

theorem speed128Code_lt (n : Int) : speed128Code n < 128 := by
  unfold speed128Code
  split_ifs <;> omega

/-- R131 clears bit 0 of a speed that fits 7 bits. -/
theorem and_0x7E_eq_even : ∀ k < 128, k &&& 0x7E = 2 * (k / 2) := by decide

/-- The direction above a 7-bit code, as the pattern `DSSSSSSS` of R104. -/
theorem ofNat_shift_or_eq_append (d : Bool) {code : Nat} (hcode : code < 128) :
    BitVec.ofNat 8 ((d.toNat <<< 7) ||| code) = BitVec.ofBool d ++ BitVec.ofNat 7 code := by
  refine BitVec.eq_of_toNat_eq ?_
  have hbyte : d.toNat <<< 7 ||| code < 2 ^ 8 :=
    Nat.or_lt_two_pow (by cases d <;> decide) (by omega)
  rw [BitVec.toNat_ofNat, Nat.mod_eq_of_lt hbyte, BitVec.toNat_append, BitVec.toNat_ofBool, BitVec.toNat_ofNat,
    Nat.mod_eq_of_lt hcode]

theorem encode128_eq (d : Bool) {n : Int} (hmax : n ≤ 127) :
    encode128 d n = BitVec.ofBool d ++ BitVec.ofNat 7 (speed128Code n) := by
  rw [← ofNat_shift_or_eq_append d (speed128Code_lt n)]
  unfold encode128 speed128Code
  rcases lt_trichotomy n 0 with hneg | rfl | hpos
  · have hclamped : (if n < -1 then -1 else n) = -1 := by omega
    simp only [hclamped, if_pos hneg, if_true]
  · rfl
  · have hunclamped : (if n < -1 then -1 else n) = n := if_neg (by omega)
    have hne : n ≠ -1 := by omega
    simp only [hunclamped, if_neg hne, if_neg hpos.ne', if_neg hpos.not_gt]
    split
    next hlow =>
      rw [and_0x7E_eq_even _ (by omega), show (n + 2).toNat = n.toNat + 2 by omega]
    next hhigh =>
      rw [and_0x7E_eq_even _ (by omega), show 2 * (n.toNat / 2) = 126 by omega]

/-- Settles O41: the byte is the direction bit above the code. -/
theorem encode128Codes : Obligations.Encode128Codes := by
  unfold Obligations.Encode128Codes
  intro d n _ hmax
  rw [encode128_eq d hmax]
  refine ⟨?_, ?_⟩
  · rw [BitVec.getLsbD_append]
    simp
  · rw [BitVec.extractLsb'_append_eq_right]
    exact Nat.mod_eq_of_lt (speed128Code_lt n)

/-! ### encode28 (R132, R133) -/

/-- The clamps of R132: a speed outside 0 to 28 gives the byte of the nearer end. -/
theorem encode28_eq_clamped (d : Bool) (n : Int) : encode28 d n = encode28 d (max 0 (min n 28)) := by
  rcases lt_or_ge n 0 with hneg | hnonneg
  · have hstop : (if n < -1 then -1 else n) = -1 := by omega
    have hbelow : ¬ n > 28 := by omega
    rw [show max 0 (min n 28) = 0 by omega]
    simp [encode28, hbelow, hstop]
  rcases le_or_gt n 28 with hle | hgt
  · rw [show max 0 (min n 28) = n by omega]
  · rw [show max 0 (min n 28) = 28 by omega]
    simp [encode28, hgt]

/-- R133, entry by entry, for both directions. -/
theorem encode28_natCast_eq_table : ∀ d : Bool, ∀ k ≤ 28,
    encode28 d (k : Nat) = (if d then 0x20#8 else 0#8) + (speed28Table[k]?).getD 0#8 := by
  decide

/-- Settles O42: the clamped speed is an entry of the table. -/
theorem encode28Table : Obligations.Encode28Table := by
  unfold Obligations.Encode28Table
  intro d n _ _
  have hentry := encode28_natCast_eq_table d (max 0 (min n 28)).toNat (by omega)
  rw [Int.toNat_of_nonneg (by omega)] at hentry
  exact (encode28_eq_clamped d n).trans hentry

end Sys2Proof.Machine
end

section
/-! SUPPORT. The statements of 41_function_coder.md: what a group byte reads after SET_FN, and SET_FN and GET_FN as
equations on a slot in use. -/

namespace Sys2Proof.Machine

/-! ### Groups, bits and fixed bits (R150 to R153) -/

/-- Settles O17: the thirteen rows, one by one. -/
theorem functionCoderTable : Obligations.FunctionCoderTable := by
  unfold Obligations.FunctionCoderTable
  intro fn hrow
  have hfn : fn < 13 := hrow
  interval_cases fn <;> rfl

theorem bitShift_lt (fn : Nat) : bitShift fn < 8 := by
  unfold bitShift
  split_ifs <;> omega

/-- Two functions of one group have different bits (R150, R151). -/
theorem eq_of_group_of_bit {fn k : Nat} (hfn : fn ≤ maxFn) (hk : k ≤ maxFn) (hgroup : groupIndex k = groupIndex fn)
    (hbit : bitShift k = bitShift fn) : k = fn := by
  have htable : ∀ i ≤ maxFn, ∀ j ≤ maxFn, groupIndex j = groupIndex i → bitShift j = bitShift i → j = i := by decide
  exact htable fn hfn k hk hgroup hbit

/-- What SET_FN ORs in again leaves the bits of the group's functions alone (R151, R152). -/
theorem getLsbD_groupPrefix {fn k : Nat} (hk : k ≤ maxFn) (hgroup : groupIndex k = groupIndex fn) :
    (groupPrefix fn).getLsbD (bitShift k) = false := by
  have htable : ∀ j ≤ maxFn, (groupPrefix j).getLsbD (bitShift j) = false := by decide
  have hfixed : groupPrefix fn = groupPrefix k := by rw [groupPrefix_eq_fixed, groupPrefix_eq_fixed, hgroup]
  exact hfixed ▸ htable k hk

/-! ### The group byte and the slot after SET_FN (R154) -/

/-- Of the functions of its group, SET_FN's byte has the one it names as given and the others as before. -/
theorem getLsbD_fnByte (b : Byte) {fn k : Nat} (on : Bool) (hfn : fn ≤ maxFn) (hk : k ≤ maxFn)
    (hgroup : groupIndex k = groupIndex fn) :
    (fnByte b fn on).getLsbD (bitShift k) = if k = fn then on else b.getLsbD (bitShift k) := by
  have hmask : (1#8 <<< bitShift fn).getLsbD (bitShift k) = decide (k = fn) := by
    rw [← BitVec.twoPow_eq, BitVec.getLsbD_twoPow]
    have hsame : bitShift fn = bitShift k ↔ k = fn :=
      ⟨fun h => eq_of_group_of_bit hfn hk hgroup h.symm, fun h => h ▸ rfl⟩
    simp [hsame, bitShift_lt]
  simp only [fnByte, BitVec.getLsbD_or, getLsbD_groupPrefix hk hgroup, Bool.or_false]
  cases on with
  | true =>
    rw [if_pos rfl, BitVec.getLsbD_or, hmask]
    by_cases hkfn : k = fn <;> simp [hkfn]
  | false =>
    rw [if_neg Bool.false_ne_true, BitVec.getLsbD_and, BitVec.getLsbD_not, hmask]
    by_cases hkfn : k = fn <;> simp [hkfn, bitShift_lt]

/-- The slot SET_FN stores for a function up to 12: its group byte written, and dirty. -/
def Slot.withFn (v : Slot) (fn : Nat) (on : Bool) : Slot :=
  { v.setFg (groupIndex fn) (fnByte (v.fg (groupIndex fn)) fn on) with dirty := true }

theorem fg_withFn (v : Slot) (fn : Nat) (on : Bool) (g : Group) :
    (v.withFn fn on).fg g = if g = groupIndex fn then fnByte (v.fg g) fn on else v.fg g := by
  have hdirty : (v.withFn fn on).fg g = (v.setFg (groupIndex fn) (fnByte (v.fg (groupIndex fn)) fn on)).fg g := by
    cases g <;> rfl
  rw [hdirty, fg_setFg]
  split_ifs with hg
  · rw [hg]
  · rfl

/-- R156 read off the slot that R154 stores. -/
theorem fnBit_withFn (v : Slot) {fn k : Nat} (on : Bool) (hfn : fn ≤ maxFn) (hk : k ≤ maxFn) :
    fnBit (v.withFn fn on) k = if k = fn then on else fnBit v k := by
  have hindex : ¬ k > maxFn := not_lt.mpr hk
  simp only [fnBit, if_neg hindex, fg_withFn]
  by_cases hgroup : groupIndex k = groupIndex fn
  · rw [if_pos hgroup, getLsbD_fnByte _ on hfn hk hgroup]
  · have hne : k ≠ fn := fun h => hgroup (h ▸ rfl)
    rw [if_neg hgroup, if_neg hne]

/-! ### The slot of a handle (R99 (f)) -/

theorem slot?_of_lt {s : State} {h : BitVec 8} (hh : h.toNat < s.nLoco) : s.slot? h = some s.slots[h.toNat] :=
  List.getElem?_eq_getElem hh

theorem slot?_of_le {s : State} {h : BitVec 8} (hh : s.nLoco ≤ h.toNat) : s.slot? h = none :=
  List.getElem?_eq_none hh

/-- A write to a slot in use is read back at its handle and nowhere else. -/
theorem slot?_setSlot {s : State} {h : BitVec 8} {v : Slot} (hv : s.slot? h = some v) (u : Slot) (h' : BitVec 8) :
    (setSlot h u s).slot? h' = if h' = h then some u else s.slot? h' := by
  obtain ⟨hlt, -⟩ := List.getElem?_eq_some_iff.mp hv
  simp only [State.slot?, setSlot_slots]
  split_ifs with hh
  · rw [hh, List.getElem?_set_self hlt]
  · have hne : h.toNat ≠ h'.toNat := fun he => hh (BitVec.eq_of_toNat_eq he.symm)
    rw [List.getElem?_set_ne hne]

/-! ### SET_FN and GET_FN case by case (R154, R156) -/

theorem exec_setFn_of_slot {h : BitVec 8} {fn : BitVec 5} {s : State} {v : Slot} (on : Bool) (hv : s.slot? h = some v)
    (hf : fn.toNat ≤ maxFn) : exec (.setFn h fn on) s = .next (ok (setSlot h (v.withFn fn.toNat on) s)) := by
  show execSetFn h fn on s = _
  simp only [execSetFn, hv, if_neg (not_lt.mpr hf)]
  rfl

theorem exec_setFn_of_index_gt {h : BitVec 8} {fn : BitVec 5} {s : State} {v : Slot} (on : Bool)
    (hv : s.slot? h = some v) (hf : maxFn < fn.toNat) : exec (.setFn h fn on) s = .next (ok s) := by
  show execSetFn h fn on s = _
  simp only [execSetFn, hv, if_pos hf]

theorem exec_setFn_of_no_slot {h : BitVec 8} (fn : BitVec 5) (on : Bool) {s : State} (hv : s.slot? h = none) :
    exec (.setFn h fn on) s = .next (refuse s) := by
  show execSetFn h fn on s = _
  simp only [execSetFn, hv]

theorem exec_getFn_of_slot {h : BitVec 8} (fn : BitVec 5) {s : State} {v : Slot} (hv : s.slot? h = some v) :
    exec (.getFn h fn) s = .next (respond statusOk (BitVec.ofNat 8 (fnBit v fn.toNat).toNat) s) := by
  show execGetFn h fn s = _
  simp only [execGetFn, hv]

theorem exec_getFn_of_no_slot {h : BitVec 8} (fn : BitVec 5) {s : State} (hv : s.slot? h = none) :
    exec (.getFn h fn) s = .next (refuse s) := by
  show execGetFn h fn s = _
  simp only [execGetFn, hv]

/-- Settles O15: the three cases of SET_FN, the handle looked at first. -/
theorem setFnWritesTheGroupByteOrIgnoresOrRefuses : Obligations.SetFnWritesTheGroupByteOrIgnoresOrRefuses := by
  unfold Obligations.SetFnWritesTheGroupByteOrIgnoresOrRefuses
  intro h fn on s
  refine ⟨fun hh hf => ?_, fun hh hf => ?_, fun hh => ?_⟩
  · exact exec_setFn_of_slot on (slot?_of_lt hh) hf
  · exact exec_setFn_of_index_gt on (slot?_of_lt hh) hf
  · exact exec_setFn_of_no_slot fn on (slot?_of_le hh)

/-- Settles O16: a slot in use answers its bit, which is 0 above index 12. -/
theorem getFnAnswersTheBitOrRefuses : Obligations.GetFnAnswersTheBitOrRefuses := by
  unfold Obligations.GetFnAnswersTheBitOrRefuses
  intro h fn s
  refine ⟨fun hh hf => ?_, fun hh hf => ?_, fun hh => ?_⟩
  · rw [exec_getFn_of_slot fn (slot?_of_lt hh), fnBit, if_neg (not_lt.mpr hf)]
    cases (s.slots[h.toNat].fg (groupIndex fn.toNat)).getLsbD (bitShift fn.toNat) <;> rfl
  · rw [exec_getFn_of_slot fn (slot?_of_lt hh), fnBit, if_pos hf]
    rfl
  · exact exec_getFn_of_no_slot fn (slot?_of_le hh)

/-! ### GET_FN after SET_FN (R154, R156) -/

/-- After SET_FN every slot in use is still in use, and of all their functions only the one it names has changed. -/
theorem fnBit_slot?_after_setFn {h h' : BitVec 8} {fn k : Nat} {s : State} {v v' : Slot} (on : Bool)
    (hv : s.slot? h = some v) (hv' : s.slot? h' = some v') (hfn : fn ≤ maxFn) (hk : k ≤ maxFn) :
    ∃ u, (ok (setSlot h (v.withFn fn on) s)).slot? h' = some u ∧
      fnBit u k = if h' = h ∧ k = fn then on else fnBit v' k := by
  have hread : (ok (setSlot h (v.withFn fn on) s)).slot? h' = if h' = h then some (v.withFn fn on) else s.slot? h' :=
    slot?_setSlot hv _ h'
  by_cases hh : h' = h
  · obtain rfl : v' = v := by
      rw [hh, hv] at hv'
      exact (Option.some.inj hv').symm
    exact ⟨_, hread.trans (if_pos hh), by simp only [fnBit_withFn v' on hfn hk, hh, true_and]⟩
  · exact ⟨v', by rw [hread, if_neg hh, hv'], by simp only [hh, false_and, if_false]⟩

/-- Settles O18: GET_FN answers the bit of the slot that SET_FN left. -/
theorem setFnThenGetFn : Obligations.SetFnThenGetFn := by
  unfold Obligations.SetFnThenGetFn
  intro h h' fn fn' on s t hh hh' hf hf' hset
  have hv := slot?_of_lt hh
  have hv' := slot?_of_lt hh'
  rw [exec_setFn_of_slot on hv hf] at hset
  obtain rfl := Host.Outcome.next.inj hset
  obtain ⟨u, hu, hbit⟩ := fnBit_slot?_after_setFn on hv hv' hf hf'
  refine ⟨_, exec_getFn_of_slot fn' hu, fun hsame hfn => ?_, fun hother => ⟨_, exec_getFn_of_slot fn' hv', ?_⟩⟩
  · rw [if_pos ⟨hsame, hfn ▸ rfl⟩] at hbit
    rw [hbit]
    cases on <;> rfl
  · have hunchanged : ¬ (h' = h ∧ fn'.toNat = fn.toNat) := fun ⟨he, hfn⟩ =>
      hother.elim (· he) (· (BitVec.eq_of_toNat_eq hfn))
    rw [if_neg hunchanged] at hbit
    rw [hbit]
    rfl

end Sys2Proof.Machine
end

section
/-! SUPPORT. The statements of 42_instruction_assembler.md: CREATE and DRIVE as equations, the refused cases apart. -/

namespace Sys2Proof.Machine

/-! ### CREATE (R175) -/

/-- With none of the three refusals CREATE appends the fresh record, and its handle is the old `n_loco`. -/
theorem exec_create_of_free {a : BitVec 14} {l : Bool} {m : BitVec 2} {s : State} (hm : m ≠ 3#2)
    (ha : l = false → a.toNat ≤ 127) (hn : s.nLoco ≠ s.cfg.nLoco) :
    exec (.create a l m) s =
      .next (respond statusOk (BitVec.ofNat 8 s.nLoco) { s with slots := s.slots ++ [freshSlot a l m] }) := by
  have haddr : ¬ (l = false ∧ a.toNat > 127) := fun ⟨hl, hgt⟩ => (ha hl).not_gt hgt
  show execCreate a l m s = _
  rw [execCreate, if_neg hm, if_neg haddr, if_neg hn]

/-- Which of the three refusals comes first makes no difference. -/
theorem exec_create_of_refused {a : BitVec 14} {l : Bool} {m : BitVec 2} {s : State}
    (h : m = 3#2 ∨ (l = false ∧ 127 < a.toNat) ∨ s.nLoco = s.cfg.nLoco) :
    exec (.create a l m) s = .next (refuse s) := by
  show execCreate a l m s = _
  rw [execCreate]
  split_ifs with hm ha hn
  · rfl
  · rfl
  · rfl
  · exact absurd h (not_or.mpr ⟨hm, not_or.mpr ⟨ha, hn⟩⟩)

/-- Settles O13: CREATE is refused, or it appends its record. -/
theorem createAppendsARecordOrRefuses : Obligations.CreateAppendsARecordOrRefuses := by
  unfold Obligations.CreateAppendsARecordOrRefuses
  intro a l m s
  refine ⟨fun hm ha hn => ?_, fun hrefused => ?_⟩
  · exact exec_create_of_free hm ha hn
  · rw [exec_create_of_refused hrefused, refuse_eq_answered]

/-! ### DRIVE (R176) -/

theorem exec_drive_of_slot {h : BitVec 8} {s : State} {v : Slot} (dir : Bool) (speed : BitVec 8)
    (hv : s.slot? h = some v) :
    exec (.drive h dir speed) s = .next (ok (setSlot h { v with dir := dir, speed := speed, dirty := true } s)) := by
  show execDrive h dir speed s = _
  simp only [execDrive, hv]

theorem exec_drive_of_no_slot {h : BitVec 8} {s : State} (dir : Bool) (speed : BitVec 8) (hv : s.slot? h = none) :
    exec (.drive h dir speed) s = .next (refuse s) := by
  show execDrive h dir speed s = _
  simp only [execDrive, hv]

/-- Settles O14: a handle below `n_loco` has a slot, any other has none. -/
theorem driveStoresThePairOrRefuses : Obligations.DriveStoresThePairOrRefuses := by
  unfold Obligations.DriveStoresThePairOrRefuses
  intro h d v s
  refine ⟨fun hh => ?_, fun hh => ?_⟩
  · exact exec_drive_of_slot d v (slot?_of_lt hh)
  · rw [exec_drive_of_no_slot d v (slot?_of_le hh), refuse_eq_answered]

end Sys2Proof.Machine
end

section
/-! SUPPORT. The statements of 43_framer_packer.md: the whole packets of the table, the sizes of a frame, its bit-level
invariants, and the layout of its words. -/

namespace Sys2Proof.Machine

/-! ### Whole packets (R190, R198, R199) -/

theorem exec_wirePacket_of_legal {bytes : List Byte} (s : State) (h : legalLength bytes.length = true) :
    exec (.wirePacket bytes) s = .next (emitPacket (packetWords bytes) s) := by
  show execWirePacket bytes s = _
  rw [execWirePacket, framePacket, if_pos h]

theorem exec_wirePacket_of_illegal {bytes : List Byte} (s : State) (h : legalLength bytes.length ≠ true) :
    exec (.wirePacket bytes) s = .next (recordFault .invalidLength s) := by
  show execWirePacket bytes s = _
  rw [execWirePacket, framePacket, if_neg h]

theorem legalLength_iff {n : Nat} : legalLength n = true ↔ 2 ≤ n ∧ n ≤ 5 := by simp [legalLength]

/-- Settles O39: the two constant packets are packets of the framer, and a frame of illegal length is the raise. -/
theorem wirePacketsEmitTheirWords : Obligations.WirePacketsEmitTheirWords := by
  unfold Obligations.WirePacketsEmitTheirWords
  intro s bytes
  refine ⟨?_, ?_, fun h2 h5 => ?_, fun hn => ?_⟩
  · rw [← idleSeq_eq]; rfl
  · rw [← emergPkt_eq]; rfl
  · exact exec_wirePacket_of_legal s (legalLength_iff.mpr ⟨h2, h5⟩)
  · exact exec_wirePacket_of_illegal s (fun hl => by have := legalLength_iff.mp hl; omega)

/-! ### Sizes (R192, R194, R196) -/

/-- The ones before the first zero are the preamble, its padding included (R194). -/
theorem takeWhile_frameBits {bs : List Byte} (h : bs ≠ []) :
    (frameBits bs).takeWhile id = List.replicate (preambleMin + padLen bs.length) true := by
  obtain ⟨b, bs, rfl⟩ := List.exists_cons_of_ne_nil h
  rw [frameBits, frameBitsWith, List.append_assoc, List.takeWhile_append_of_pos (by simp)]
  simp

theorem packetWords_length (bytes : List Byte) :
    (packetWords bytes).length = (minLen (bytes.length + 1) + padLen (bytes.length + 1)) / 32 := by
  simp [packetWords, packWords, frameBits_length]

/-- Settles O44: the sizes of a frame depend on the number of its bytes alone. -/
theorem frameSizes : Obligations.FrameSizes := by
  unfold Obligations.FrameSizes
  intro bytes h2 h5
  rw [frameBits_length, takeWhile_frameBits (by simp), packetWords_length, List.length_replicate, List.length_append,
    List.length_singleton]
  generalize bytes.length = n at h2 h5 ⊢
  interval_cases n <;> decide

/-! ### Bit-level invariants (R200) -/

/-- The checksum cancels the XOR of the bytes before it (R200 (a)). -/
theorem xor_framed_bytes (bytes : List Byte) : (bytes ++ [checksum bytes]).foldl (fun c b => c ^^^ b) 0#8 = 0#8 := by
  rw [List.foldl_append]
  exact BitVec.xor_self

theorem padLen_lt (m : Nat) : padLen m < 32 := by rw [padLen]; omega

/-- Equal words carry equal Instructions (R200 (d)). -/
theorem packetWords_injective {bytes bytes' : List Byte} (h : packetWords bytes' = packetWords bytes) :
    bytes' = bytes := by
  have hframed : some (bytes' ++ [checksum bytes']) = some (bytes ++ [checksum bytes]) := by
    rw [← readFrameBytes_packetWords, ← readFrameBytes_packetWords, h]
  exact (List.append_inj' (Option.some.inj hframed) rfl).1

/-- Settles O43: by the frame's preamble, the bytes read after it, and the padding of less than a word. -/
theorem frameInvariants : Obligations.FrameInvariants := by
  unfold Obligations.FrameInvariants
  intro bytes _ _ all bits
  have hpad := padLen_lt all.length
  have hones : (bits.takeWhile id).length = 14 + padLen all.length := by
    rw [takeWhile_frameBits (by simp [all]), List.length_replicate]
  have hread : readFrameBytes (bits.dropWhile id) = some all := by
    rw [dropWhile_frameBits (by simp [all]), readFrameBytes_frame]
  exact ⟨xor_framed_bytes bytes, Nat.mod_eq_zero_of_dvd (frameBits_aligned all), by omega, by omega, hones, hread,
    fun _ _ _ h => packetWords_injective h⟩

/-! ### Layout (R195, R197) -/

/-- 64 bits are packed into two words (R195). -/
theorem packWords_append {hi lo : List Bool} (hhi : hi.length = 32) (hlo : lo.length = 32) :
    packWords (hi ++ lo) = [wordOfBits hi, wordOfBits lo] := by
  have hpieces : List.range ((hi ++ lo).length / 32) = [0, 1] := by rw [List.length_append, hhi, hlo]; rfl
  rw [packWords, hpieces]
  simp [List.take_left' hhi, List.drop_left' hhi, List.take_of_length_le hlo.le]

/-- Bits that follow shift a word up and fill the room (R195). -/
theorem wordOfBits_append (bits more : List Bool) :
    wordOfBits (bits ++ more) = wordOfBits bits <<< more.length ||| wordOfBits more := by
  induction more using List.reverseRecOn with
  | nil => simp [wordOfBits]
  | append_singleton more b ih =>
    rw [← List.append_assoc, wordOfBits_concat, ih, wordOfBits_concat, BitVec.shiftLeft_or_distrib,
      ← BitVec.shiftLeft_add, BitVec.or_assoc, List.length_append, List.length_singleton]

/-- A start bit and a byte's 8 bits are the byte, as a number (R193). -/
theorem wordOfBits_byte (b : Byte) : wordOfBits (false :: byteBits b) = b.setWidth 32 := by
  revert b; decide

/-- The upper half of a byte that a word boundary divides, its start bit before it. -/
theorem wordOfBits_upper (b : Byte) : wordOfBits (false :: (byteBits b).take 4) = (b >>> 4).setWidth 32 := by
  revert b; decide

/-- The lower half of a byte that a word boundary divides, at the top of the next word. -/
theorem wordOfBits_lower (b : Byte) : wordOfBits ((byteBits b).drop 4) <<< 28 = b.setWidth 32 <<< 28 := by
  revert b; decide

/-- The end of a frame: three bytes and the stop bit, after the `top` of the word they stand in. -/
theorem wordOfBits_end (top : List Bool) (x y c : Byte) :
    wordOfBits (top ++ ([x, y, c].flatMap (fun b => false :: byteBits b) ++ [true])) =
      wordOfBits top <<< 28 ||| x.setWidth 32 <<< 19 ||| y.setWidth 32 <<< 10 ||| c.setWidth 32 <<< 1 ||| 1#32 := by
  have hstop : wordOfBits [true] = 1#32 := rfl
  simp only [List.flatMap_cons, List.flatMap_nil, List.append_nil, wordOfBits_append, wordOfBits_byte, hstop,
    BitVec.shiftLeft_or_distrib, ← BitVec.shiftLeft_add, ← BitVec.or_assoc]
  rfl

/-- The words of a packet whose frame the word boundary divides: `hi` before it, `top` and three bytes after. -/
theorem packetWords_of_split {bytes : List Byte} {p : Nat} {hi top : List Bool} {x y c : Byte}
    (hp : preambleMin + padLen (bytes.length + 1) = p)
    (hsplit : frameBitsWith p (bytes ++ [checksum bytes]) =
      hi ++ (top ++ ([x, y, c].flatMap (fun b => false :: byteBits b) ++ [true])))
    (hhi : hi.length = 32) (htop : top.length = 4) :
    packetWords bytes = [wordOfBits hi,
      wordOfBits top <<< 28 ||| x.setWidth 32 <<< 19 ||| y.setWidth 32 <<< 10 ||| c.setWidth 32 <<< 1 ||| 1#32] := by
  have hlo : (top ++ ([x, y, c].flatMap (fun b => false :: byteBits b) ++ [true])).length = 32 := by
    rw [List.length_append, htop]; rfl
  rw [packetWords, frameBits, List.length_append, List.length_singleton, hp, hsplit, packWords_append hhi hlo,
    wordOfBits_end]

/-- Two bytes after 36 ones: the first word is preamble alone (R197). -/
theorem packetWords_two (a b : Byte) :
    packetWords [a, b] = [0xFFFFFFFF#32,
      0xF0000001#32 ||| a.setWidth 32 <<< 19 ||| b.setWidth 32 <<< 10 ||| (a ^^^ b).setWidth 32 <<< 1] := by
  have hsum : checksum [a, b] = a ^^^ b := by simp [checksum]
  have hfirst : wordOfBits (List.replicate 32 true) = 0xFFFFFFFF#32 := by decide
  have htop : wordOfBits (List.replicate 4 true) <<< 28 = 0xF0000000#32 := by decide
  have hstop : 0xF0000001#32 = 0xF0000000#32 ||| 1#32 := by decide
  rw [packetWords_of_split (p := 36) (hi := List.replicate 32 true) (top := List.replicate 4 true)
    (by simp [padLen, minLen]) rfl rfl rfl, hsum, hfirst, htop, hstop]
  simp only [BitVec.or_assoc, BitVec.or_comm 1#32]

/-- Three bytes after 27 ones: the first byte lies across the word boundary (R197). -/
theorem packetWords_three (a b d : Byte) :
    packetWords [a, b, d] = [0xFFFFFFE0#32 ||| (a >>> 4).setWidth 32,
      a.setWidth 32 <<< 28 ||| b.setWidth 32 <<< 19 ||| d.setWidth 32 <<< 10 |||
        (a ^^^ b ^^^ d).setWidth 32 <<< 1 ||| 1#32] := by
  have hsum : checksum [a, b, d] = a ^^^ b ^^^ d := by simp [checksum]
  have hones : wordOfBits (List.replicate 27 true) <<< 5 = 0xFFFFFFE0#32 := by decide
  have hfirst : wordOfBits (List.replicate 27 true ++ (false :: (byteBits a).take 4)) =
      0xFFFFFFE0#32 ||| (a >>> 4).setWidth 32 := by
    rw [wordOfBits_append, wordOfBits_upper, ← hones]
    rfl
  rw [packetWords_of_split (p := 27) (hi := List.replicate 27 true ++ (false :: (byteBits a).take 4))
    (top := (byteBits a).drop 4) (by simp [padLen, minLen]) rfl rfl rfl, hsum, hfirst, wordOfBits_lower]

/-- Four bytes after 18 ones: the second byte lies across the word boundary (R197). -/
theorem packetWords_four (a b d e : Byte) :
    packetWords [a, b, d, e] = [0xFFFFC000#32 ||| a.setWidth 32 <<< 5 ||| (b >>> 4).setWidth 32,
      b.setWidth 32 <<< 28 ||| d.setWidth 32 <<< 19 ||| e.setWidth 32 <<< 10 |||
        (a ^^^ b ^^^ d ^^^ e).setWidth 32 <<< 1 ||| 1#32] := by
  have hsum : checksum [a, b, d, e] = a ^^^ b ^^^ d ^^^ e := by simp [checksum]
  have hones : wordOfBits (List.replicate 18 true) <<< 14 = 0xFFFFC000#32 := by decide
  have hfirst : wordOfBits (List.replicate 18 true ++ (false :: byteBits a) ++ (false :: (byteBits b).take 4)) =
      0xFFFFC000#32 ||| a.setWidth 32 <<< 5 ||| (b >>> 4).setWidth 32 := by
    rw [wordOfBits_append, wordOfBits_append, wordOfBits_byte, wordOfBits_upper, BitVec.shiftLeft_or_distrib, ← hones]
    rfl
  rw [packetWords_of_split (p := 18)
    (hi := List.replicate 18 true ++ (false :: byteBits a) ++ (false :: (byteBits b).take 4))
    (top := (byteBits b).drop 4) (by simp [padLen, minLen]) rfl rfl rfl, hsum, hfirst, wordOfBits_lower]

/-- Settles O45: by the number of bytes. -/
theorem frameWordLayout : Obligations.FrameWordLayout := by
  unfold Obligations.FrameWordLayout
  exact fun a b d e => ⟨packetWords_two a b, packetWords_three a b d, packetWords_four a b d e⟩

end Sys2Proof.Machine
end

section
/-! SUPPORT. The statements of 44_track_buffer.md: the hand-off, a rebuild slot by slot, when LOOP is held and what passes it,
what a LOOP that reaches its tick hands off, why no step faults, and the rows that emit what a rebuild gives. -/

namespace Sys2Proof.Machine

/-! ### The hand-off (R225) -/

/-- Settles O33: the shadow bank is written from word 0 up, the other bank not at all. -/
theorem handoffWritesTheShadowBank : Obligations.HandoffWritesTheShadowBank := by
  unfold Obligations.HandoffWritesTheShadowBank
  intro t seq u
  have hshadow : u.bank (!t.active) = ⟨seq.length, (t.bank (!t.active)).w.writeFrom 0 seq⟩ := handoff_bank_shadow t seq
  rw [hshadow]
  refine ⟨handoff_active t seq, handoff_rd t seq, handoff_pending t seq, handoff_bank_active t seq, rfl,
    fun i hi => ?_, fun i hi => ?_, wf_writeFrom 0 seq⟩
  · simpa using read_writeFrom_inside (t.bank (!t.active)).w seq 0 hi
  · exact read_writeFrom_past _ seq (by omega)

/-! ### Rebuilds (R221, R222) -/

/-- Settles O34: of the two answers of a rebuild the slots' modes choose one. -/
theorem rebuildSizeOrUnsupportedMode : Obligations.RebuildSizeOrUnsupportedMode := by
  unfold Obligations.RebuildSizeOrUnsupportedMode
  intro s
  rcases rebuild_cases s with ⟨seq, hseq, -, hlen, hcoded⟩ | ⟨herror, -, v, hv, h0, h1⟩
  · exact ⟨fun _ => ⟨seq, hseq, hlen⟩, fun ⟨v, hv, hnot⟩ => absurd (hcoded v hv) hnot⟩
  · exact ⟨fun hall => absurd (hall v hv) (not_or.mpr ⟨h0, h1⟩), fun _ => herror⟩

/-- A rebuild of a registry within N_LOCO fits a bank (R222). -/
theorem rebuild_fits {s : State} {seq : List Word} (hn : s.nLoco ≤ s.cfg.nLoco) (h : rebuild s = .ok seq) :
    seq.length ≤ s.cfg.bankWords := by
  rcases rebuild_cases s with ⟨seq', hseq', -, hlen, -⟩ | ⟨herror, -⟩
  · obtain rfl : seq = seq' := Except.ok.inj (h.symm.trans hseq')
    rw [hlen, Config.bankWords]
    split_ifs <;> omega
  · exact nomatch h.symm.trans herror

theorem speedInstr_of_codable {v : Slot} (h : codable v) : speedInstr v = .ok (speedBytes v) := by
  rcases h with hmode | hmode <;> simp [speedInstr, speedBytes, speedValue, hmode]

/-- The words of a slot with a speed coding are its four packets (R221). -/
theorem slotWords_of_codable {v : Slot} (h : codable v) : slotWords v = .ok ((slotPackets v).flatMap packetWords) := by
  rcases slotWords_cases v with ⟨sp, hsp, -, -, -, hwords⟩ | ⟨-, h0, h1⟩
  · obtain rfl : speedBytes v = sp := Except.ok.inj ((speedInstr_of_codable h).symm.trans hsp)
    exact hwords
  · exact absurd h (not_or.mpr ⟨h0, h1⟩)

/-- The words of such slots are their packets in ascending order (R221). -/
theorem registryWords_of_codable {vs : List Slot} (h : ∀ v ∈ vs, codable v) :
    registryWords vs = .ok ((vs.flatMap slotPackets).flatMap packetWords) := by
  induction vs with
  | nil => rfl
  | cons v vs ih =>
    obtain ⟨hv, hvs⟩ := List.forall_mem_cons.mp h
    simp only [registryWords, slotWords_of_codable hv, ih hvs, List.flatMap_cons, List.flatMap_append]

/-- Both answers of a rebuild without a raise (R221). -/
theorem rebuild_of_codable {s : State} (h : ∀ v ∈ s.slots, codable v) :
    rebuild s = .ok (if s.slots = [] then idleSeq else (s.slots.flatMap slotPackets).flatMap packetWords) := by
  rw [rebuild, State.nLoco, registryWords_of_codable h]
  simp only [List.length_eq_zero_iff]
  split_ifs <;> rfl

/-! ### When LOOP is held (R226) -/

theorem anyDirty_iff (s : State) : s.anyDirty = true ↔ s.regDirty = true ∨ ∃ v ∈ s.slots, v.dirty = true := by
  simp [State.anyDirty]

/-- The condition of R226, its four parts apart. -/
theorem holdCond_iff (s : State) : s.holdCond = true ↔ s.power = true ∧ s.ocLatch = false ∧ s.tx.pending = true ∧
    (s.estop = true ∨ s.regDirty = true ∨ ∃ v ∈ s.slots, v.dirty = true) := by
  simp [State.holdCond, anyDirty_iff, and_assoc]

theorem exec_loop_of_holdCond {s : State} (h : s.holdCond = true) : exec .loop s = .next (hold s) := if_pos h

theorem exec_loop_of_not_holdCond {s : State} (h : s.holdCond = false) : exec .loop s = loopBody (release s) :=
  if_neg (Bool.eq_false_iff.mp h)

/-- Settles O24: the hypotheses are the condition of R226. -/
theorem loopIsHeldWhileAHandoffIsPending : Obligations.LoopIsHeldWhileAHandoffIsPending := by
  unfold Obligations.LoopIsHeldWhileAHandoffIsPending
  intro s hpower hlatch hpending hneeded
  exact exec_loop_of_holdCond ((holdCond_iff s).mpr ⟨hpower, hlatch, hpending, hneeded⟩)

/-- `t` has one response more than `s`, the one at the port (R97). -/
def AnsweredOnce (s t : State) : Prop := t.obs.responses = s.obs.responses ++ [t.port.rsp]

/-- Every end of a tick is a response. -/
theorem answeredOnce_tick {s t : State} (h : tick s = .next t) : AnsweredOnce s t := by
  rcases tick_cases h with ⟨-, rfl⟩ | ⟨-, -, _, -, -, rfl⟩ | ⟨-, -, -, rfl⟩ | ⟨-, -, rfl⟩ <;> rfl

/-- Where a LOOP reaches nothing has been answered. -/
theorem obs_loopReaches {s b : State} (hb : LoopReaches s b) : b.obs = s.obs := by
  cases hb <;> simp

/-- A LOOP that is not held is answered (R97, R275). -/
theorem answeredOnce_execLoop {s t : State} (hc : s.holdCond = false) (h : execLoop s = .next t) : AnsweredOnce s t := by
  have hticked : ∀ {b}, LoopReaches s b → tick b = .next t → AnsweredOnce s t := fun hb ht => by
    rw [AnsweredOnce, ← obs_loopReaches hb]
    exact answeredOnce_tick ht
  rcases execLoop_cases h with
    ⟨hc', -⟩ | ⟨-, ⟨-, rfl⟩ | ⟨-, -, rfl⟩ | ⟨-, -, -, -, rfl⟩ | ⟨-, -, -, -, ht⟩ | ⟨-, -, -, ht⟩⟩
  · exact nomatch hc.symm.trans hc'
  · rfl
  · rfl
  · rfl
  · exact hticked .checked ht
  · exact hticked .unchecked ht

/-- Settles O25: under the condition of R226 LOOP is held, otherwise it runs to its response. -/
theorem loopIsHeldInNoOtherState : Obligations.LoopIsHeldInNoOtherState := by
  unfold Obligations.LoopIsHeldInNoOtherState
  intro s t h
  rw [← holdCond_iff]
  cases hc : s.holdCond with
  | true =>
    obtain rfl := Host.Outcome.next.inj ((exec_loop_of_holdCond hc).symm.trans h)
    simp
  | false =>
    have hheld := held_execLoop hc h
    exact ⟨by simp [hheld], fun _ => answeredOnce_execLoop hc h⟩

/-! ### While LOOP is held (R226) -/

/-- Where only command words are offered, nothing passes them. -/
theorem fetch_of_held_idle {s : State} (hr : s.env.rst = false) (hh : s.port.held = true) (hc : s.holdCond = true)
    (ht : takeOther s.env.inputs = none) : fetch s = .settled s := by
  unfold fetch
  simp [hr, hh, hc, ht]

/-- What a step does with an input that is no command word: a level of `rst`, a pop or an emission. -/
theorem step_of_fetch_other {s s0 t : State} {n : Input} (hf : fetch s = runInput n s0) (hn : isCmdInput n = false)
    (h : step s = .next t) :
    (∃ lvl, t = setRst lvl s0) ∨ t = afterPops [s0.txWord] s0.tx.advance s0 ∨ ∃ e, t = { s0 with enc := e } := by
  cases hd : decode n with
  | ok i =>
    rw [step_of_fetch_run (hf.trans (runInput_of_decode hd s0))] at h
    rcases decode_other hn hd with rfl | hemits
    · exact .inr (.inl (Host.Outcome.next.inj h).symm)
    · exact .inr (.inr (emission_frame hemits (wf_of_decode hd) h))
  | error e =>
    cases n with
    | cmd w => cases hn
    | rst lvl => exact .inl ⟨lvl, Host.Outcome.next.inj (h.symm.trans (step_of_fetch_settled hf))⟩
    | pop | wire | frame =>
      rw [step, hf] at h
      simp [runInput, hd] at h

/-- What a step under the hold leaves as it was, or the platform has reset the block. -/
def KeptUnderHold (s t : State) : Prop :=
  t.env.rst = false → t.port.held = true ∧ t.slots = s.slots ∧ t.regDirty = s.regDirty ∧ t.power = s.power ∧
    t.estop = s.estop ∧ t.ocLatch = s.ocLatch ∧ t.lines = s.lines ∧ t.mon = s.mon ∧ t.fault = s.fault

theorem keptUnderHold_self {s : State} (hh : s.port.held = true) : KeptUnderHold s s :=
  fun _ => ⟨hh, rfl, rfl, rfl, rfl, rfl, rfl, rfl, rfl⟩

theorem keptUnderHold_setRst {s : State} (hh : s.port.held = true) (lvl : Bool) : KeptUnderHold s (setRst lvl s) := by
  cases lvl with
  | false => exact keptUnderHold_self hh
  | true => exact fun hr => nomatch hr

/-- Settles O11: the step idles, or takes the input that passes the command words. -/
theorem heldLoopTakesNoCommand : Obligations.HeldLoopTakesNoCommand := by
  unfold Obligations.HeldLoopTakesNoCommand
  intro s t hr hh hc h
  cases htake : takeOther s.env.inputs with
  | none =>
    obtain rfl := Host.Outcome.next.inj ((step_of_fetch_settled (fetch_of_held_idle hr hh hc htake)).symm.trans h)
    exact ⟨rfl, rfl, keptUnderHold_self hh⟩
  | some p =>
    obtain ⟨n, rest⟩ := p
    obtain ⟨hn, hwaiting, -⟩ := takeOther_spec htake
    rcases step_of_fetch_other (fetch_of_held hr hh hc htake) hn h with ⟨lvl, rfl⟩ | rfl | ⟨e, rfl⟩
    · have hkept := keptUnderHold_setRst (s := setInputs rest s) hh lvl
      cases lvl <;> exact ⟨hwaiting, rfl, hkept⟩
    · exact ⟨hwaiting, rfl, keptUnderHold_self hh⟩
    · exact ⟨hwaiting, rfl, keptUnderHold_self hh⟩

/-- A state in which no LOOP is held needs no reason for one. -/
theorem heldWf_of_not_held {s : State} (h : s.port.held = false) : s.heldWf := fun hh => nomatch h.symm.trans hh

/-- LOOP is held only with a reason, and one that ran is held no more. -/
theorem heldWf_execLoop {s t : State} (h : execLoop s = .next t) : t.heldWf := by
  cases hc : s.holdCond with
  | true =>
    obtain rfl := Host.Outcome.next.inj ((exec_loop_of_holdCond hc).symm.trans h)
    obtain ⟨hpower, hlatch, -, hneeded⟩ := (holdCond_iff s).mp hc
    exact fun _ => ⟨hpower, hlatch, by simpa [anyDirty_iff] using hneeded⟩
  | false => exact heldWf_of_not_held (held_execLoop hc h)

/-- Only LOOP changes whether one is held. -/
theorem held_effect {i : Instr} {s t : State} (hi : i ≠ .loop) (h : Effect s i t) : t.port.held = s.port.held := by
  cases h with
  | loopHeld | loopRaised | loopTripped | loopTicked => exact absurd rfl hi
  | answered | created | driven | fnSet | poweredUp | powerUpTripped | poweredDown | deinited | estopped | popped | emitted
  | badFrame => simp

/-- What passes the waiting command words leaves a held LOOP its reason. -/
theorem heldWf_exec_other {n : Input} {i : Instr} {s t : State} (hn : isCmdInput n = false) (hd : decode n = .ok i)
    (hs : s.heldWf) (h : exec i s = .next t) : t.heldWf := by
  rcases decode_other hn hd with rfl | hemits
  · obtain rfl := Host.Outcome.next.inj h
    exact hs
  · obtain ⟨e, rfl⟩ := emission_frame hemits (wf_of_decode hd) h
    exact hs

/-- An instruction run while no LOOP is held leaves one held only if it is a LOOP, with its reason. -/
theorem heldWf_exec_ready {i : Instr} {s t : State} (hh : s.port.held = false) (h : exec i s = .next t) : t.heldWf := by
  by_cases hi : i = .loop
  · subst hi
    exact heldWf_execLoop h
  · exact heldWf_of_not_held ((held_effect hi (effect_of_exec h)).trans hh)

/-- Settles O52: no command runs while a LOOP is held, and what else runs leaves its reason. -/
theorem stepKeepsTheHeldLoopsReason : Obligations.StepKeepsTheHeldLoopsReason := by
  unfold Obligations.StepKeepsTheHeldLoopsReason
  intro s t hs h
  rcases step_cases h with
    ⟨-, e, rfl⟩ | ⟨-, rfl | ⟨lvl, rest, rfl⟩ | ⟨hh, rest, rfl⟩ | ⟨-, -, he⟩ | ⟨n, rest, i, hd, -, hpass, he⟩⟩
  · exact heldWf_of_not_held rfl
  · exact hs
  · cases lvl with
    | false => exact hs
    | true => exact heldWf_of_not_held rfl
  · exact heldWf_of_not_held hh
  · exact heldWf_execLoop he
  · cases hh : s.port.held with
    | true => exact heldWf_exec_other (s := setInputs rest s) (hpass hh) hd hs he
    | false => exact heldWf_exec_ready (s := setInputs rest s) hh he

/-! ### A LOOP that reaches its tick (R223, R275) -/

/-- What a LOOP consumes by its hand-offs is the same: `estop`, `reg_dirty` and every slot (R223). -/
def SameFlags (s t : State) : Prop := t.estop = s.estop ∧ t.regDirty = s.regDirty ∧ t.slots = s.slots

/-- Where a LOOP reaches it has consumed nothing. -/
theorem sameFlags_loopReaches {s b : State} (hb : LoopReaches s b) : SameFlags s b := by
  cases hb <;> exact ⟨by simp, by simp, by simp⟩

theorem anyDirty_of_sameFlags {s t : State} (h : SameFlags s t) : t.anyDirty = s.anyDirty := by
  obtain ⟨-, hreg, hslots⟩ := h
  rw [State.anyDirty, State.anyDirty, hreg, hslots]

/-- The sample and the time of a check, as the statements write them (R251 to R253). -/
theorem loopChecked_eq (s : State) : loopChecked s = checkedAt s.env.timeNow (loopStart s) := by
  have hma : lastMaOf s.cfg (loopStart s).sampleMa = (monitorAfter s.cfg s.env.afterTime s.env.timeNow).lastMa := by
    simp only [lastMaOf, monitorAfter, Config.maFits, Bool.and_eq_true, decide_eq_true_eq]
    rfl
  simp only [loopChecked, checkedAt, setLastCheck, sample, release_cfg, takeTime_cfg, hma]
  rfl

theorem loopReaches_of_reachesTick {s b : State} (h : reachesTick s b) : LoopReaches s b := by
  rcases h with ⟨-, rfl⟩ | ⟨-, -, rfl⟩
  · exact .unchecked
  · exact loopChecked_eq s ▸ .checked

/-- The check is due by the wrapped difference (R277). -/
theorem checkDue_iff (s : State) : checkDue s.env.timeNow s = true ↔ loopCheckDue s := decide_eq_true_iff

/-- Powered, without latch or hold, a LOOP whose check is not due or passes ends as its tick (R275). -/
theorem exec_loop_of_reachesTick {s b : State} (hpower : s.power = true) (hlatch : s.ocLatch = false)
    (hc : s.holdCond = false) (h : reachesTick s b) : exec .loop s = tick b := by
  have hpower' : ¬ (loopStart s).power = false := Bool.not_eq_false _ ▸ hpower
  have hlatch' : ¬ (loopStart s).ocLatch = true := Bool.not_eq_true _ ▸ hlatch
  rw [exec_loop_of_not_holdCond hc, loopBody, loopAt, if_neg hpower', if_neg hlatch']
  rcases h with ⟨hdue, rfl⟩ | ⟨hdue, hma, rfl⟩
  · have hdue' : ¬ checkDue (release s).env.timeNow (loopStart s) = true := fun hd => hdue ((checkDue_iff s).mp hd)
    rw [if_neg hdue']
    rfl
  · have hdue' : checkDue (release s).env.timeNow (loopStart s) = true := (checkDue_iff s).mpr hdue
    have hma' : ¬ (loopStart s).sampleMa > threshMa := not_lt.mpr hma
    rw [if_pos hdue', checkShort, if_neg hma', loopChecked_eq]
    rfl

/-- Nothing is held while nothing is pending. -/
theorem holdCond_of_not_pending {s : State} (h : s.tx.pending = false) : s.holdCond = false := by
  simp [State.holdCond, h]

/-- Nothing is held while nothing needs a hand-off. -/
theorem holdCond_of_clean {s : State} (hestop : s.estop = false) (hdirty : s.anyDirty = false) : s.holdCond = false := by
  simp [State.holdCond, hestop, hdirty]

theorem tick_of_estop {s : State} (h : s.estop = true) : tick s = .next (ok (clearEstop (commit emergSeq s))) := by
  simp [tick, h, handoff, emergSeq_fits]

theorem tick_of_rebuild {s : State} {seq : List Word} (hestop : s.estop = false) (hdirty : s.anyDirty = true)
    (hseq : rebuild s = .ok seq) (hfits : seq.length ≤ s.cfg.bankWords) :
    tick s = .next (ok (clearDirty (commit seq s))) := by
  simp [tick, hestop, hdirty, hseq, handoff, hfits]

theorem tick_of_clean {s : State} (hestop : s.estop = false) (hdirty : s.anyDirty = false) : tick s = .next (ok s) := by
  simp [tick, hestop, hdirty]

/-- Settles O32: the LOOP reaches a tick that finds nothing to hand off. -/
theorem loopHandsOffNothing : Obligations.LoopHandsOffNothing := by
  unfold Obligations.LoopHandsOffNothing
  intro s s1 hpower hlatch hestop hreg hslots hreach
  have hclean : s.anyDirty = false := by simpa [State.anyDirty, hreg] using hslots
  have hflags := sameFlags_loopReaches (loopReaches_of_reachesTick hreach)
  have ⟨hestop1, _, _⟩ := hflags
  have hclean1 : s1.anyDirty = false := (anyDirty_of_sameFlags hflags).trans hclean
  rw [exec_loop_of_reachesTick hpower hlatch (holdCond_of_clean hestop hclean) hreach,
    tick_of_clean (hestop1.trans hestop) hclean1]
  rfl

/-- Settles O29: the tick that the LOOP reaches finds `estop` and looks at nothing else. -/
theorem loopHandsOffTheEmergencySequence : Obligations.LoopHandsOffTheEmergencySequence := by
  unfold Obligations.LoopHandsOffTheEmergencySequence
  intro s s1 hpower hlatch hpending hestop hreach
  obtain ⟨hestop1, -⟩ := sameFlags_loopReaches (loopReaches_of_reachesTick hreach)
  rw [exec_loop_of_reachesTick hpower hlatch (holdCond_of_not_pending hpending) hreach,
    tick_of_estop (hestop1.trans hestop)]
  rfl

/-- Settles O30: the tick that the LOOP reaches rebuilds from the same registry, and the words fit a bank. -/
theorem loopRebuilds : Obligations.LoopRebuilds := by
  unfold Obligations.LoopRebuilds
  intro s s1 hpower hlatch hpending hestop hdirty hn hcodable hreach
  have hb := loopReaches_of_reachesTick hreach
  have hflags := sameFlags_loopReaches hb
  have ⟨hestop1, _, hslots1⟩ := hflags
  obtain ⟨-, hcfg1⟩ := fault_cfg_loopReaches hb
  have hdirty1 : s1.anyDirty = true := (anyDirty_of_sameFlags hflags).trans ((anyDirty_iff s).mpr hdirty)
  have hn1 : s1.nLoco ≤ s1.cfg.nLoco := by rwa [State.nLoco, hslots1, hcfg1]
  have hseq := (rebuild_congr hslots1).trans (rebuild_of_codable hcodable)
  rw [exec_loop_of_reachesTick hpower hlatch (holdCond_of_not_pending hpending) hreach,
    tick_of_rebuild (hestop1.trans hestop) hdirty1 hseq (rebuild_fits hn1 hseq)]
  rfl

/-! ### What a LOOP without a hand-off consumes (R223, R228) -/

/-- The flags and the transmit banks are the same. -/
def ConsumesNothing (s t : State) : Prop := SameFlags s t ∧ t.tx = s.tx

/-- A tick that leaves nothing pending has handed nothing off, and so consumed nothing. -/
theorem consumesNothing_tick {s t : State} (h : tick s = .next t) (hp : t.tx.pending = false) : ConsumesNothing s t := by
  rcases tick_cases h with ⟨-, rfl⟩ | ⟨-, -, _, -, -, rfl⟩ | ⟨-, -, -, rfl⟩ | ⟨-, -, rfl⟩
  · cases hp
  · cases hp
  · exact ⟨⟨rfl, rfl, rfl⟩, rfl⟩
  · exact ⟨⟨rfl, rfl, rfl⟩, rfl⟩

theorem consumesNothing_loopReaches {s b : State} (hb : LoopReaches s b) : ConsumesNothing s b :=
  ⟨sameFlags_loopReaches hb, tx_loopReaches hb⟩

theorem ConsumesNothing.trans {s b t : State} (hb : ConsumesNothing s b) (ht : ConsumesNothing b t) :
    ConsumesNothing s t := by
  obtain ⟨⟨hestop, hreg, hslots⟩, htx⟩ := hb
  obtain ⟨⟨hestop', hreg', hslots'⟩, htx'⟩ := ht
  exact ⟨⟨hestop'.trans hestop, hreg'.trans hreg, hslots'.trans hslots⟩, htx'.trans htx⟩

/-- A LOOP that leaves nothing pending has consumed nothing. -/
theorem consumesNothing_execLoop {s t : State} (h : execLoop s = .next t) (hp : t.tx.pending = false) :
    ConsumesNothing s t := by
  have hunchecked := consumesNothing_loopReaches (LoopReaches.unchecked (s := s))
  have hchecked := consumesNothing_loopReaches (LoopReaches.checked (s := s))
  rcases execLoop_cases h with
    ⟨-, rfl⟩ | ⟨-, ⟨-, rfl⟩ | ⟨-, -, rfl⟩ | ⟨-, -, -, -, rfl⟩ | ⟨-, -, -, -, ht⟩ | ⟨-, -, -, ht⟩⟩
  · exact ⟨⟨rfl, rfl, rfl⟩, rfl⟩
  · exact hunchecked
  · exact hunchecked
  · exact hchecked
  · exact hchecked.trans (consumesNothing_tick ht hp)
  · exact hunchecked.trans (consumesNothing_tick ht hp)

/-- Settles O60: a LOOP consumes its flags only in a tick, and there only together with a hand-off. -/
theorem loopConsumesFlagsOnlyByAHandoff : Obligations.LoopConsumesFlagsOnlyByAHandoff := by
  unfold Obligations.LoopConsumesFlagsOnlyByAHandoff
  intro s t _ h hp
  obtain ⟨⟨hestop, hreg, hslots⟩, htx⟩ := consumesNothing_execLoop h hp
  exact ⟨hestop, hreg, hslots, sameTransmit_of_eq htx⟩

/-! ### No step faults (R222, R344) -/

/-- A LOOP goes on whenever the registry fits: its one stop is in the hand-off of its tick. -/
theorem execLoop_next {s : State} (hn : s.nLoco ≤ s.cfg.nLoco) : ∃ t, execLoop s = .next t := by
  unfold execLoop loopBody loopAt checkShort
  split_ifs
  · exact ⟨_, rfl⟩
  · exact ⟨_, rfl⟩
  · exact ⟨_, rfl⟩
  · exact ⟨_, rfl⟩
  · exact tick_next (s := checkedAt s.env.timeNow (loopStart s)) hn
  · exact tick_next (s := loopStart s) hn

/-- Every instruction goes on whenever the registry fits. -/
theorem exec_next (i : Instr) {s : State} (hn : s.nLoco ≤ s.cfg.nLoco) : ∃ t, exec i s = .next t := by
  cases i with
  | loop => exact execLoop_next hn
  | _ => exact ⟨_, rfl⟩

/-- An input that is run is run in the state it arrives in. -/
theorem eq_of_runInput_run {n : Input} {i : Instr} {s s1 : State} (h : runInput n s = .run i s1) : s1 = s := by
  cases hd : decode n with
  | ok c =>
    rw [runInput_of_decode hd] at h
    injection h with _ hs
    exact hs.symm
  | error e => cases n <;> simp [runInput, hd] at h

/-- Before what it finds is run, the fetch has changed nothing but the inputs still to come. -/
theorem inputs_of_fetch_run {i : Instr} {s s1 : State} (h : fetch s = .run i s1) : ∃ l, s1 = setInputs l s := by
  unfold fetch fetchInReset at h
  split_ifs at h
  · split at h <;> cases h
  · split at h
    · cases h
    · exact ⟨_, eq_of_runInput_run h⟩
  · injection h with _ hs
    exact ⟨s.env.inputs, hs.symm⟩
  · split at h
    · cases h
    · exact ⟨_, eq_of_runInput_run h⟩

/-- Settles O49: what the fetch settles or stops at is no fault, and what it finds to run goes on. -/
theorem noStepFaultsFromTheInvariants : Obligations.NoStepFaultsFromTheInvariants := by
  unfold Obligations.NoStepFaultsFromTheInvariants
  intro s ⟨⟨hn, _⟩, _⟩ f h
  cases hf : fetch s with
  | run i s1 =>
    obtain ⟨l, rfl⟩ := inputs_of_fetch_run hf
    obtain ⟨t, ht⟩ := exec_next i (s := setInputs l s) hn
    exact nomatch ((step_of_fetch_run hf).trans ht).symm.trans h
  | settled t => exact nomatch (step_of_fetch_settled hf).symm.trans h
  | stop r =>
    rw [step, hf] at h
    cases h

/-! ### The rows of a locomotive (R103 to R106, R170 to R173, R221) -/

/-- The address bytes of a well-formed slot are those of its address row (R103, R170). -/
theorem exec_addressRow {v : Slot} (hv : v.wf) (s : State) :
    exec (addressRow v) s = .next (emitAddress (addressPrefix v) s) := by
  obtain ⟨-, -, -, haddr, -⟩ := hv
  have hlow : BitVec.ofNat 8 (v.addr.toNat &&& 0xFF) = v.addr.setWidth 8 := by
    refine BitVec.eq_of_toNat_eq ?_
    rw [show 0xFF = 2 ^ 8 - 1 from rfl, Nat.and_two_pow_sub_one_eq_mod]
    simp
  unfold addressRow addressPrefix
  rw [hlow]
  cases hlong : v.long with
  | true =>
    have hhigh : BitVec.ofNat 8 (v.addr.toNat >>> 8) = (v.addr >>> 8).setWidth 8 := BitVec.eq_of_toNat_eq (by simp)
    simp only [if_true, hhigh, ← longAddrBytes_eq]
    rfl
  | false =>
    have hshort : shortAddrByte (v.addr.extractLsb' 0 7) = v.addr.setWidth 8 := by
      have hle := haddr hlong
      refine BitVec.eq_of_toNat_eq ?_
      rw [shortAddrByte_eq, BitVec.toNat_append]
      simp
      omega
    simp only [Bool.false_eq_true, if_false, ← hshort]
    rfl

/-- A row and a packet belong together: the packet's Instruction is the slot's address bytes and those that the row emits. -/
def EmitsPacket (v : Slot) (r : Instr × List Byte) : Prop :=
  ∃ bytes, (∀ s, exec r.1 s = .next (emitCommand bytes s)) ∧ r.2 = addressPrefix v ++ bytes ∧
    legalLength r.2.length = true

/-- The leading bits of every 28-step byte (R105, R132). -/
theorem encode28_top (d : Bool) (n : Int) : (encode28 d n).extractLsb' 6 2 = 0b01#2 := by
  have htable : ∀ d : Bool, ∀ k ≤ 28, (encode28 d (k : Nat)).extractLsb' 6 2 = 0b01#2 := by decide
  have hentry := htable d (max 0 (min n 28)).toNat (by omega)
  rw [Int.toNat_of_nonneg (by omega)] at hentry
  rwa [encode28_eq_clamped]

theorem speedBytes_legal {v : Slot} (h : codable v) : legalLength (speedBytes v).length = true := by
  rcases speedInstr_cases v with ⟨bs, hbs, h2, h4, -⟩ | ⟨-, h0, h1⟩
  · obtain rfl := Except.ok.inj ((speedInstr_of_codable h).symm.trans hbs)
    exact legal_of_le h2 h4
  · exact absurd h (not_or.mpr ⟨h0, h1⟩)

/-- The speed row emits the speed coder's byte, whose fields it was cut into (R104, R105, R172). -/
theorem emitsPacket_speed {v : Slot} (h : codable v) : EmitsPacket v (speedRow v, speedBytes v) := by
  refine ⟨_, fun s => ?_, rfl, speedBytes_legal h⟩
  unfold speedRow
  rcases h with hmode | hmode
  · rw [if_pos hmode, if_pos hmode, ← speed128Bytes_of_fields]
    rfl
  · have hne : ¬ v.mode = 0#2 := by rw [hmode]; decide
    rw [if_neg hne, if_neg hne]
    show Host.Outcome.next (emitCommand [speed28Byte _ _ _] s) = _
    rw [speed28Byte_of_fields (encode28_top _ _)]

theorem legalLength_fnInstr (v : Slot) (g : Group) : legalLength (addressPrefix v ++ [v.fg g]).length = true :=
  legal_of_le (fnInstr_legal v g).1 (fnInstr_legal v g).2

theorem fnGroup0Byte_of_fixed {b : Byte} (h : b &&& 0xE0#8 = 0x80#8) : fnGroup0Byte (b.extractLsb' 0 5) = b := by
  revert b; decide

theorem fnGroup1Byte_of_fixed {b : Byte} (h : b &&& 0xF0#8 = 0xB0#8) : fnGroup1Byte (b.extractLsb' 0 4) = b := by
  revert b; decide

theorem fnGroup2Byte_of_fixed {b : Byte} (h : b &&& 0xF0#8 = 0xA0#8) : fnGroup2Byte (b.extractLsb' 0 4) = b := by
  revert b; decide

/-- A row that emits the byte of a group belongs to that group's packet (R106, R173). -/
theorem emitsPacket_fg {v : Slot} (g : Group) {row : Instr} {b : Byte} (hb : b = v.fg g)
    (hrow : ∀ s, exec row s = .next (emitCommand [b] s)) : EmitsPacket v (row, addressPrefix v ++ [v.fg g]) := by
  subst hb
  exact ⟨[v.fg g], hrow, rfl, legalLength_fnInstr v g⟩

/-- The four rows of a locomotive, each beside its packet. -/
def rowPackets (v : Slot) : List (Instr × List Byte) := (speedRow v :: functionRows v).zip (slotPackets v)

theorem emitsPacket_rowPackets {v : Slot} (hv : v.wf) (hc : codable v) : ∀ r ∈ rowPackets v, EmitsPacket v r := by
  simp only [rowPackets, functionRows, slotPackets, List.zip_cons_cons, List.zip_nil_right, List.forall_mem_cons]
  obtain ⟨h0, h1, h2, -⟩ := hv
  exact ⟨emitsPacket_speed hc, emitsPacket_fg .g0 (fnGroup0Byte_of_fixed h0) fun _ => rfl,
    emitsPacket_fg .g1 (fnGroup1Byte_of_fixed h1) fun _ => rfl,
    emitsPacket_fg .g2 (fnGroup2Byte_of_fixed h2) fun _ => rfl, List.forall_mem_nil _⟩

theorem execAll_append {is js : List Instr} {s t : State} (h : execAll is s = .next t) :
    execAll (is ++ js) s = execAll js t := by
  induction is generalizing s with
  | nil =>
    obtain rfl := Host.Outcome.next.inj h
    rfl
  | cons i is ih =>
    rw [execAll] at h
    rw [List.cons_append, execAll]
    cases hi : exec i s with
    | next s1 =>
      rw [hi] at h
      exact ih h
    | fault f => rw [hi] at h; cases h
    | refused r => rw [hi] at h; cases h

section Rows

variable {v : Slot} {r : Instr × List Byte}

/-- Address row and command row leave the packet's Instruction in the encoder (R171). -/
theorem execAll_instr (hv : v.wf) (hr : EmitsPacket v r) (s : State) :
    execAll [addressRow v, r.1] s = .next { s with enc := { s.enc with instr := r.2 } } := by
  obtain ⟨bytes, hexec, hbytes, -⟩ := hr
  rw [execAll, exec_addressRow hv]
  show execAll [r.1] _ = _
  rw [execAll, hexec, hbytes]
  rfl

/-- The frame row puts the packet's words behind the sequence and leaves no Instruction over (R171). -/
theorem execAll_packet (hv : v.wf) (hr : EmitsPacket v r) (s : State) :
    execAll [addressRow v, r.1, .wirePacket r.2] s = .next (emitPacket (packetWords r.2) s) := by
  have ⟨_, _, _, hlegal⟩ := hr
  refine (execAll_append (is := [addressRow v, r.1]) (execAll_instr hv hr s)).trans ?_
  rw [execAll, exec_wirePacket_of_legal _ hlegal]
  rfl

end Rows

/-- Packet after packet, behind words already emitted (R221). -/
theorem execAll_packets {v : Slot} (hv : v.wf) {rs : List (Instr × List Byte)} (hrs : ∀ r ∈ rs, EmitsPacket v r)
    (words : List Word) (s : State) :
    execAll (rs.flatMap fun r => [addressRow v, r.1, .wirePacket r.2]) (emitPacket words s) =
      .next (emitPacket (words ++ (rs.map Prod.snd).flatMap packetWords) s) := by
  induction rs generalizing words with
  | nil => simp [execAll]
  | cons r rs ih =>
    obtain ⟨hr, hrs⟩ := List.forall_mem_cons.mp hrs
    have hjoin : emitPacket (packetWords r.2) (emitPacket words s) = emitPacket (words ++ packetWords r.2) s := by
      simp [emitPacket]
    rw [List.flatMap_cons, execAll_append (execAll_packet hv hr _), hjoin, ih hrs]
    simp

/-- Settles O40: each row emits the bytes of its packet, and the four packets are the slot's words. -/
theorem rowsOfALocomotiveEmitItsRebuild : Obligations.RowsOfALocomotiveEmitItsRebuild := by
  unfold Obligations.RowsOfALocomotiveEmitItsRebuild
  intro v s hv hc
  have hrows := emitsPacket_rowPackets hv hc
  refine ⟨?_, slotWords_of_codable hc, fun r hr => ⟨_, execAll_instr hv (hrows r hr) s, rfl⟩⟩
  obtain ⟨hspeed, hgroups⟩ := List.forall_mem_cons.mp hrows
  refine (execAll_append (execAll_packet hv hspeed s)).trans ?_
  exact execAll_packets hv hgroups _ s

end Sys2Proof.Machine
end

section
/-! SUPPORT. The statements of 45_current_monitor.md: the smoothing reading by reading, the conversion as a rounded quotient,
that both are monotone, and how near a steady reading brings the peak to its code. -/

namespace Sys2Proof.Machine

/-! ### One reading, and the readings in order (R251) -/

theorem smooth_acc (a : Nat × Nat) (raw : Nat) : (smooth a raw).1 = (7 * (raw * 2 ^ 16) + 33 * a.1) / 40 := rfl

theorem smooth_peak (a : Nat × Nat) (raw : Nat) : (smooth a raw).2 = max a.2 (smooth a raw).1 := rfl

@[simp] theorem smoothAll_nil : smoothAll [] = (0, 0) := rfl

theorem smoothAll_concat (raws : List Nat) (raw : Nat) : smoothAll (raws ++ [raw]) = smooth (smoothAll raws) raw :=
  List.foldl_concat ..

/-! ### The conversion (R252) -/

/-- Without the bias, the conversion is the rounded quotient. -/
theorem toMilliamps_add_biasMa (k : Config) (peak : Nat) : toMilliamps k peak + k.biasMa =
    ((peak * k.gainNum + k.gainDen * 2 ^ 15) / (k.gainDen * 2 ^ 16) : Nat) :=
  Int.sub_add_cancel ..

/-- A valid configuration divides by a positive number (R343). -/
theorem gainDen_pos_of_valid {k : Config} (h : k.valid) : 0 < k.gainDen := by
  simp only [Config.valid, Bool.and_eq_true, decide_eq_true_eq] at h
  obtain ⟨⟨⟨-, hden⟩, -⟩, -⟩ := h
  exact hden

/-- The quotient is the nearest number of milliamps, halves up: the product and half a divisor lie between it and
the next one. -/
theorem toMilliamps_brackets {k : Config} (peak : Nat) (hk : k.valid) :
    (toMilliamps k peak + k.biasMa) * (k.gainDen * 2 ^ 16) ≤ peak * k.gainNum + k.gainDen * 2 ^ 15 ∧
    (peak * k.gainNum + k.gainDen * 2 ^ 15 : Int) < (toMilliamps k peak + k.biasMa + 1) * (k.gainDen * 2 ^ 16) := by
  have hdivisor : 0 < k.gainDen * 2 ^ 16 := Nat.mul_pos (gainDen_pos_of_valid hk) (Nat.two_pow_pos 16)
  rw [toMilliamps_add_biasMa]
  constructor
  · exact_mod_cast Nat.div_mul_le_self (peak * k.gainNum + k.gainDen * 2 ^ 15) (k.gainDen * 2 ^ 16)
  · exact_mod_cast Nat.lt_mul_of_div_lt (Nat.lt_succ_self _) hdivisor

/-- A peak of 0 is minus the bias (R256). -/
theorem toMilliamps_zero {k : Config} (hk : k.valid) : toMilliamps k 0 = -(k.biasMa : Int) := by
  have hden := gainDen_pos_of_valid hk
  have hquot : (0 * k.gainNum + k.gainDen * 2 ^ 15) / (k.gainDen * 2 ^ 16) = 0 := Nat.div_eq_of_lt (by omega)
  have hsum := toMilliamps_add_biasMa k 0
  rw [hquot] at hsum
  omega

/-- With a gain of 1 and no bias, a peak at most half a code below a code converts to it (90_conflicts.md C11). -/
theorem toMilliamps_unit {k : Config} {peak c : Nat} (hnum : k.gainNum = 1) (hden : k.gainDen = 1) (hbias : k.biasMa = 0)
    (hle : peak ≤ c * 2 ^ 16) (hnear : c * 2 ^ 16 ≤ peak + 2 ^ 15) : toMilliamps k peak = c := by
  have hquot : (peak * 1 + 1 * 2 ^ 15) / (1 * 2 ^ 16) = c := by omega
  have hsum := toMilliamps_add_biasMa k peak
  rw [hnum, hden, hbias, hquot] at hsum
  omega

/-! ### A higher reading never lowers the result (R256) -/

theorem smooth_mono {a b : Nat × Nat} {r q : Nat} (hab : a ≤ b) (hrq : r ≤ q) : smooth a r ≤ smooth b q := by
  obtain ⟨hacc, hpeak⟩ := hab
  have hnew : (smooth a r).1 ≤ (smooth b q).1 := by
    rw [smooth_acc, smooth_acc]
    omega
  exact ⟨hnew, max_le_max hpeak hnew⟩

theorem smoothAll_mono {raws raws' : List Nat} (h : List.Forall₂ (· ≤ ·) raws raws') : smoothAll raws ≤ smoothAll raws' := by
  have hstep : Relator.LiftFun (· ≤ ·) (Relator.LiftFun (· ≤ ·) (· ≤ ·)) smooth smooth :=
    fun _ _ hab _ _ hrq => smooth_mono hab hrq
  exact List.rel_foldl hstep (le_refl ((0, 0) : Nat × Nat)) h

theorem toMilliamps_mono (c : Config) {p q : Nat} (h : p ≤ q) : toMilliamps c p ≤ toMilliamps c q := by
  have hquot : (p * c.gainNum + c.gainDen * 2 ^ 15) / (c.gainDen * 2 ^ 16) ≤
      (q * c.gainNum + c.gainDen * 2 ^ 15) / (c.gainDen * 2 ^ 16) := by gcongr
  exact Int.sub_le_sub_right (Int.ofNat_le.mpr hquot) _

/-- Settles O46: update by update, and by induction over the readings. -/
theorem smoothedPeakIsMonotoneAndBounded : Obligations.SmoothedPeakIsMonotoneAndBounded := by
  unfold Obligations.SmoothedPeakIsMonotoneAndBounded
  refine ⟨smoothAll_nil, fun raws raw => ?_, fun k peak => toMilliamps_brackets peak, fun raws raws' h => ?_,
    fun raws top => smoothed_smoothAll⟩
  · rw [smoothAll_concat]
    exact ⟨smooth_acc _ _, smooth_peak _ _⟩
  · obtain ⟨-, hpeak⟩ := smoothAll_mono h
    exact ⟨hpeak, fun c => toMilliamps_mono c hpeak⟩

/-! ### A steady reading (R256) -/

/-- After `n` readings of `c`, seven times the lag of the accumulator behind `c`, shifted, exceeds 39 by at most
`(33/40)^n` of seven times `c`, shifted: a reading leaves 33/40 of the lag, and its quotient loses at most 39/40. -/
theorem steady_lag (c n : Nat) : 40 ^ n * (7 * (c * 2 ^ 16)) ≤
    40 ^ n * (7 * (smoothAll (List.replicate n c)).1 + 39) + 33 ^ n * (7 * (c * 2 ^ 16)) := by
  induction n with
  | zero => simp
  | succ n ih =>
    rw [List.replicate_succ', smoothAll_concat, smooth_acc]
    generalize c * 2 ^ 16 = C at ih ⊢
    generalize (smoothAll (List.replicate n c)).1 = acc at ih ⊢
    have hquot : 7 * C + 33 * acc ≤ 40 * ((7 * C + 33 * acc) / 40) + 39 := by omega
    have hscaled := Nat.mul_le_mul_left (40 ^ n) hquot
    rw [pow_succ, pow_succ]
    linarith

/-- 200 readings of a 16-bit code leave the accumulator at most 6 below it, shifted: what `(33/40)^200` leaves of the
first lag is below 1. -/
theorem steady_acc {c : Nat} (hc : c < 2 ^ 16) : c * 2 ^ 16 ≤ (smoothAll (List.replicate 200 c)).1 + 6 := by
  have hlag := steady_lag c 200
  have hrest : 33 ^ 200 * (7 * (c * 2 ^ 16)) < 40 ^ 200 :=
    calc 33 ^ 200 * (7 * (c * 2 ^ 16)) ≤ 33 ^ 200 * (7 * (2 ^ 16 * 2 ^ 16)) := by gcongr
      _ < 40 ^ 200 := by norm_num
  have hseven : 7 * (c * 2 ^ 16) < 7 * (smoothAll (List.replicate 200 c)).1 + 39 + 1 :=
    Nat.lt_of_mul_lt_mul_left (a := 40 ^ 200) (by linarith)
  omega

/-- The peak after steady readings lies between the accumulator and the code. -/
theorem steady_peak {c : Nat} (hc : c < 2 ^ 16) : (smoothAll (List.replicate 200 c)).2 ≤ c * 2 ^ 16 ∧
    c * 2 ^ 16 ≤ (smoothAll (List.replicate 200 c)).2 + 6 := by
  obtain ⟨hacc, hpeak⟩ : Smoothed c (smoothAll (List.replicate 200 c)) :=
    smoothed_smoothAll fun _ hr => (List.eq_of_mem_replicate hr).le
  exact ⟨hpeak, (steady_acc hc).trans (Nat.add_le_add_right hacc 6)⟩

/-- Settles O47: the lag shrinks geometrically, and 6 units of `2^-16` are less than half a code. -/
theorem steadyReadingsConvertToThemselves : Obligations.SteadyReadingsConvertToThemselves := by
  unfold Obligations.SteadyReadingsConvertToThemselves
  refine ⟨fun c => steady_peak, fun k c hnum hden hbias hc => ?_, fun k hk => ?_⟩
  · obtain ⟨hle, hnear⟩ := steady_peak hc
    exact toMilliamps_unit hnum hden hbias hle (hnear.trans (by omega))
  · obtain ⟨hzero, -⟩ := steady_peak (c := 0) (by norm_num)
    rw [Nat.zero_mul, Nat.le_zero] at hzero
    rw [hzero, toMilliamps_zero hk]

end Sys2Proof.Machine
end

section
/-! SUPPORT. The statements of 46_power_emergency_loop.md: when a LOOP takes a sample, the power commands as equations, their
check's two ends apart, and ESTOP. -/

namespace Sys2Proof.Machine

/-! ### When a LOOP takes a sample (R277) -/

/-- No sample was taken, and the latch was not moved: the monitor, the latch and the ADC readings to come are the same. -/
def TookNoSample (s t : State) : Prop :=
  t.mon = s.mon ∧ t.ocLatch = s.ocLatch ∧ t.env.adc = s.env.adc ∧ t.env.adcFree = s.env.adcFree

theorem TookNoSample.trans {s b t : State} (hb : TookNoSample s b) (ht : TookNoSample b t) : TookNoSample s t := by
  obtain ⟨hmon, hlatch, hadc, hfree⟩ := hb
  obtain ⟨hmon', hlatch', hadc', hfree'⟩ := ht
  exact ⟨hmon'.trans hmon, hlatch'.trans hlatch, hadc'.trans hadc, hfree'.trans hfree⟩

/-- A read of the time draws nothing from the ADC (R318). -/
theorem afterTime_adc (e : Env) : e.afterTime.adc = e.adc ∧ e.afterTime.adcFree = e.adcFree := by
  unfold Env.afterTime
  split <;> exact ⟨rfl, rfl⟩

/-- A LOOP begins its tests with the read of the time (R275). -/
theorem tookNoSample_loopStart (s : State) : TookNoSample s (loopStart s) := by
  obtain ⟨hadc, hfree⟩ := afterTime_adc s.env
  exact ⟨rfl, rfl, hadc, hfree⟩

/-- A tick hands off, clears flags and answers (R223). -/
theorem tookNoSample_tick {s t : State} (h : tick s = .next t) : TookNoSample s t := by
  rcases tick_cases h with ⟨-, rfl⟩ | ⟨-, -, _, -, -, rfl⟩ | ⟨-, -, -, rfl⟩ | ⟨-, -, rfl⟩ <;> exact ⟨rfl, rfl, rfl, rfl⟩

/-- Settles O59: the two ends of a LOOP after a sample both need a due check. -/
theorem loopSamplesOnlyWhenDue : Obligations.LoopSamplesOnlyWhenDue := by
  unfold Obligations.LoopSamplesOnlyWhenDue
  intro s t hdue h
  have hstart := tookNoSample_loopStart s
  have hnot : ¬ checkDue s.env.timeNow s = true := fun hd => hdue ((checkDue_iff s).mp hd)
  rcases execLoop_cases h with
    ⟨-, rfl⟩ | ⟨-, ⟨-, rfl⟩ | ⟨-, -, rfl⟩ | ⟨-, -, hd, -, -⟩ | ⟨-, -, hd, -, -⟩ | ⟨-, -, -, ht⟩⟩
  · exact ⟨rfl, rfl, rfl, rfl⟩
  · exact hstart
  · exact hstart
  · exact absurd hd hnot
  · exact absurd hd hnot
  · exact hstart.trans (tookNoSample_tick ht)

/-! ### POWER_ON and BEGIN (R270, R272) -/

/-- Three line writes in a row, seen one by one (R34, R270, R271). -/
theorem setLines_three (a b c : Lines) (s : State) : setLines c (setLines b (setLines a s)) =
    { s with lines := c, obs := { s.obs with lineTrace := s.obs.lineTrace ++ [a, b, c] } } := by
  simp [setLines]

/-- POWER_ON's writes before its check: PWM, brake and enable, in that order, and `power` (R270). -/
theorem energise_eq (s : State) : energise s =
    { s with
      power := true
      lines := linesOn
      obs := { s.obs with
        lineTrace := s.obs.lineTrace ++
          [⟨s.lines.brake, true, s.lines.pwrEn⟩, ⟨false, true, s.lines.pwrEn⟩, linesOn] } } := by
  simp only [energise, setPwmEn, setBrake, setPwrEn, setLines_three]
  rfl

/-- The check of R253 reads neither the lines nor `power`: its monitor is the one it leaves in a LOOP. -/
theorem mon_checkedAt_energise (s : State) : (checkedAt s.env.timeNow (energise (takeTime s))).mon =
    monitorAfter s.cfg s.env.afterTime s.env.timeNow :=
  (congrArg State.mon (loopChecked_eq s)).symm

/-- The writes of POWER_ON and its check, as the statements write them (R270). -/
theorem poweredUp_eq (s : State) : poweredUp s = checkedAt s.env.timeNow (energise (takeTime s)) := by
  rw [poweredUp, ← mon_checkedAt_energise, energise_eq]
  rfl

theorem powerUp_of_le {s : State} (h : checkMa s ≤ 1000) : powerUp s = ok (poweredUp s) := by
  rcases powerUp_cases s with ⟨-, hup⟩ | ⟨hma, -⟩
  · rw [hup, poweredUp_eq]
  · exact absurd h (not_le.mpr hma)

theorem powerUp_of_lt {s : State} (h : 1000 < checkMa s) :
    powerUp s = raise .overcurrent (setOcLatch (poweredUp s)) := by
  rcases powerUp_cases s with ⟨hma, -⟩ | ⟨-, hup⟩
  · exact absurd h (not_lt.mpr hma)
  · rw [hup, poweredUp_eq]

/-- Settles O19: POWER_ON is `powerUp`, whose check passes or trips. -/
theorem powerOnEnergisesThenChecks : Obligations.PowerOnEnergisesThenChecks := by
  unfold Obligations.PowerOnEnergisesThenChecks
  intro s
  exact ⟨fun h => congrArg Host.Outcome.next (powerUp_of_le h), fun h => congrArg Host.Outcome.next (powerUp_of_lt h)⟩

theorem exec_beginCmd (s : State) : exec .beginCmd s = exec .powerOn s := rfl

/-- Settles O20: BEGIN is POWER_ON, so it completes where POWER_ON does. -/
theorem beginIsPowerOn : Obligations.BeginIsPowerOn := by
  unfold Obligations.BeginIsPowerOn
  intro s
  obtain ⟨hcompletes, -⟩ := powerOnEnergisesThenChecks s
  exact ⟨exec_beginCmd s, fun h => (exec_beginCmd s).trans (hcompletes h)⟩

/-! ### POWER_OFF, DEINIT and ESTOP (R271, R273, R274) -/

/-- The writes of POWER_OFF, as the statements write them (R271): the three line writes in their order. -/
theorem poweredDown_eq (s : State) : poweredDown s = powerDown s := by
  simp only [powerDown, setBrake, setPwmEn, setPwrEn, setLines_three]
  rfl

/-- Settles O21: POWER_OFF answers after its writes. -/
theorem powerOffDeenergises : Obligations.PowerOffDeenergises := by
  unfold Obligations.PowerOffDeenergises
  intro s
  rw [poweredDown_eq]
  rfl

/-- Settles O22: DEINIT empties the registry after POWER_OFF's writes. -/
theorem deinitPowersOffAndEmptiesTheRegistry : Obligations.DeinitPowersOffAndEmptiesTheRegistry := by
  unfold Obligations.DeinitPowersOffAndEmptiesTheRegistry
  intro s
  rw [poweredDown_eq]
  rfl

/-- Settles O23: the response is all that ESTOP adds to the flag. -/
theorem estopSetsTheFlag : Obligations.EstopSetsTheFlag := by
  unfold Obligations.EstopSetsTheFlag
  intro s
  rfl

end Sys2Proof.Machine
end

section
/-! SUPPORT. The statements of 60_exceptions.md: the faults of LOOP as equations, what a latched overcurrent blocks, the lines
and the latch, the length fault that no step records, and the statuses of R305. -/

namespace Sys2Proof.Machine

/-! ### The faults of LOOP (R301 to R303, R311) -/

/-- A raise is the sticky bit and the response with the fault's status, and nothing else (R300, R310). -/
theorem raise_eq_answered (k : FaultKind) (s : State) :
    raise k s = answered k.status 0#8 { s with fault := s.fault ||| k.bit } := rfl

/-- Nothing is held while PoweredOff. -/
theorem holdCond_of_power_off {s : State} (h : s.power = false) : s.holdCond = false := by
  simp [State.holdCond, h]

/-- Nothing is held while the latch is set. -/
theorem holdCond_of_latched {s : State} (h : s.ocLatch = true) : s.holdCond = false := by
  simp [State.holdCond, h]

theorem exec_loop_of_power_off {s : State} (h : s.power = false) :
    exec .loop s = .next (raise .powerOff (loopStart s)) := by
  have hpower : (loopStart s).power = false := h
  rw [exec_loop_of_not_holdCond (holdCond_of_power_off h), loopBody, loopAt, if_pos hpower]

theorem exec_loop_of_latched {s : State} (hpower : s.power = true) (hlatch : s.ocLatch = true) :
    exec .loop s = .next (raise .overcurrent (loopStart s)) := by
  have hpower' : ¬ (loopStart s).power = false := Bool.not_eq_false _ ▸ hpower
  have hlatch' : (loopStart s).ocLatch = true := hlatch
  rw [exec_loop_of_not_holdCond (holdCond_of_latched hlatch), loopBody, loopAt, if_neg hpower', if_pos hlatch']

/-- A due check above the threshold ends the LOOP (R253, R275). -/
theorem exec_loop_of_tripped {s : State} (hpower : s.power = true) (hlatch : s.ocLatch = false) (hc : s.holdCond = false)
    (hdue : loopCheckDue s) (hma : 1000 < checkMa s) :
    exec .loop s = .next (raise .overcurrent (setOcLatch (loopChecked s))) := by
  have hpower' : ¬ (loopStart s).power = false := Bool.not_eq_false _ ▸ hpower
  have hlatch' : ¬ (loopStart s).ocLatch = true := Bool.not_eq_true _ ▸ hlatch
  have hdue' : checkDue (release s).env.timeNow (loopStart s) = true := (checkDue_iff s).mpr hdue
  have hma' : (loopStart s).sampleMa > threshMa := hma
  rw [exec_loop_of_not_holdCond hc, loopBody, loopAt, if_neg hpower', if_neg hlatch', if_pos hdue', checkShort, if_pos hma',
    loopChecked_eq]
  rfl

/-- A tick whose rebuild raises hands nothing off (R228). -/
theorem tick_of_rebuild_error {s : State} {k : FaultKind} (hestop : s.estop = false) (hdirty : s.anyDirty = true)
    (herror : rebuild s = .error k) : tick s = .next (raise k s) := by
  simp [tick, hestop, hdirty, herror]

/-- Settles O26: a LOOP while PoweredOff ends at its first test. -/
theorem loopPoweredOffFaults : Obligations.LoopPoweredOffFaults := by
  unfold Obligations.LoopPoweredOffFaults
  intro s hpower
  rw [exec_loop_of_power_off hpower, raise_eq_answered]
  rfl

/-- Settles O27: a LOOP with the latch set ends at its second test. -/
theorem loopLatchedFaults : Obligations.LoopLatchedFaults := by
  unfold Obligations.LoopLatchedFaults
  intro s hpower hlatch
  rw [exec_loop_of_latched hpower hlatch, raise_eq_answered]
  rfl

/-- Settles O28: the check latches the overcurrent and raises it before the tick. -/
theorem loopFreshOvercurrentFaults : Obligations.LoopFreshOvercurrentFaults := by
  unfold Obligations.LoopFreshOvercurrentFaults
  intro s hpower hlatch hc hdue hma
  rw [exec_loop_of_tripped hpower hlatch hc hdue hma, raise_eq_answered]
  rfl

/-- Settles O31: the tick that the LOOP reaches rebuilds from the same registry, whose slot without a speed coding raises. -/
theorem loopUnsupportedModeFaults : Obligations.LoopUnsupportedModeFaults := by
  unfold Obligations.LoopUnsupportedModeFaults
  intro s s1 hpower hlatch hpending hestop hdirty huncodable hreach
  have hb := loopReaches_of_reachesTick hreach
  have hflags := sameFlags_loopReaches hb
  have ⟨hestop1, _, hslots1⟩ := hflags
  obtain ⟨hfault1, -⟩ := fault_cfg_loopReaches hb
  have hdirty1 : s1.anyDirty = true := (anyDirty_of_sameFlags hflags).trans ((anyDirty_iff s).mpr hdirty)
  obtain ⟨-, herror⟩ := rebuildSizeOrUnsupportedMode s
  rw [exec_loop_of_reachesTick hpower hlatch (holdCond_of_not_pending hpending) hreach,
    tick_of_rebuild_error (hestop1.trans hestop) hdirty1 ((rebuild_congr hslots1).trans (herror huncodable)),
    raise_eq_answered, hfault1]
  rfl

/-! ### A latched overcurrent (R312, R314) -/

/-- Of the instructions beside LOOP only POWER_OFF and DEINIT clear the latch. -/
theorem ocLatch_effect {i : Instr} {s t : State} (hloop : i ≠ .loop) (hoff : i ≠ .powerOff) (hdeinit : i ≠ .deinit)
    (h : Effect s i t) (hlatch : s.ocLatch = true) : t.ocLatch = true := by
  cases h with
  | poweredDown => exact absurd rfl hoff
  | deinited => exact absurd rfl hdeinit
  | loopHeld | loopRaised | loopTripped | loopTicked => exact absurd rfl hloop
  | powerUpTripped => rfl
  | answered | created | driven | fnSet | poweredUp | estopped | popped | emitted | badFrame => simpa using hlatch

/-- Settles O57: a latched LOOP ends at its raise, and of the others only POP writes the transmit banks. -/
theorem latchBlocksHandoffsUntilPowerOff : Obligations.LatchBlocksHandoffsUntilPowerOff := by
  unfold Obligations.LatchBlocksHandoffsUntilPowerOff
  intro i s t hpower hlatch h
  by_cases hloop : i = .loop
  · subst hloop
    obtain rfl := Host.Outcome.next.inj ((exec_loop_of_latched hpower hlatch).symm.trans h)
    exact ⟨fun _ _ => hlatch, fun _ => sameTransmit_of_eq rfl⟩
  · refine ⟨fun hoff hdeinit => ocLatch_effect hloop hoff hdeinit (effect_of_exec h) hlatch, fun hpop => ?_⟩
    rcases tx_effect (effect_of_exec h) with htx | ⟨hi, -⟩ | ⟨hi, -⟩
    · exact sameTransmit_of_eq htx
    · exact absurd hi hloop
    · exact absurd hi hpop

/-! ### What every step keeps, by the instructions it runs -/

/-- `step_keeps` for a property that needs to know how an effect came about: the instructions run are well-formed, and
they are given with the state they ran in. -/
theorem step_keeps_of_exec {P : State → Prop} (hreset : ∀ c, P (State.resetWith c))
    (hframe : ∀ s (e : Env) (o : Obs), P s → P { s with env := e, obs := o })
    (hexec : ∀ i s t, i.wf = true → P s → exec i s = .next t → P t) {s t : State} (hs : P s) (h : step s = .next t) :
    P t := by
  have henv : ∀ u (e : Env), P u → P { u with env := e } := fun u e hu => hframe u e u.obs hu
  have hblock : ∀ (u : State) (e : Env), P { u.blockReset with env := e } :=
    fun u e => hframe (State.resetWith u.cfg) e u.obs (hreset u.cfg)
  rcases step_cases h with
    ⟨-, e, rfl⟩ | ⟨-, rfl | ⟨lvl, rest, rfl⟩ | ⟨-, rest, rfl⟩ | ⟨-, -, he⟩ | ⟨-, rest, i, -, hwf, -, he⟩⟩
  · exact hblock _ _
  · exact hs
  · cases lvl with
    | false => exact henv _ _ (henv _ _ hs)
    | true => exact hblock _ _
  · exact hexec (.reservedOp0 0#28) _ _ rfl (henv _ _ hs) rfl
  · exact hexec .loop _ _ rfl hs he
  · exact hexec i _ _ hwf (henv _ _ hs) he

/-! ### The lines and the latch (R270, R271, R312, R322) -/

/-- The lines, the power state and the latch are the same. -/
def SamePower (s t : State) : Prop := t.lines = s.lines ∧ t.power = s.power ∧ t.ocLatch = s.ocLatch

theorem powerWf_of_samePower {s t : State} (hs : s.powerWf) (h : SamePower s t) : t.powerWf := by
  obtain ⟨hlines, hpower, hlatch⟩ := h
  unfold State.powerWf
  rwa [hlines, hpower, hlatch]

/-- PoweredOn with its lines, the latch may be set or not. -/
theorem powerWf_of_on {s : State} (hpower : s.power = true) (hlines : s.lines = linesOn) : s.powerWf :=
  ⟨by rw [hlines, if_pos hpower], fun _ => hpower⟩

/-- PoweredOff with its lines, the latch must not be set. -/
theorem powerWf_of_off {s : State} (hpower : s.power = false) (hlines : s.lines = linesOff) (hlatch : s.ocLatch = false) :
    s.powerWf :=
  ⟨by rw [hlines, hpower]; rfl, fun h => nomatch hlatch.symm.trans h⟩

theorem samePower_tick {s t : State} (h : tick s = .next t) : SamePower s t := by
  rcases tick_cases h with ⟨-, rfl⟩ | ⟨-, -, _, -, -, rfl⟩ | ⟨-, -, -, rfl⟩ | ⟨-, -, rfl⟩ <;> exact ⟨rfl, rfl, rfl⟩

theorem samePower_loopReaches {s b : State} (hb : LoopReaches s b) : SamePower s b := by
  cases hb <;> exact ⟨by simp, by simp, by simp⟩

/-- LOOP sets the latch only in its check, which it reaches only while PoweredOn. -/
theorem powerWf_execLoop {s t : State} (hs : s.powerWf) (h : execLoop s = .next t) : t.powerWf := by
  have hticked : ∀ {b}, LoopReaches s b → tick b = .next t → t.powerWf := fun hb ht =>
    powerWf_of_samePower (powerWf_of_samePower hs (samePower_loopReaches hb)) (samePower_tick ht)
  rcases execLoop_cases h with
    ⟨-, rfl⟩ | ⟨-, ⟨-, rfl⟩ | ⟨-, -, rfl⟩ | ⟨hpower, -, -, -, rfl⟩ | ⟨-, -, -, -, ht⟩ | ⟨-, -, -, ht⟩⟩
  · exact hs
  · exact hs
  · exact hs
  · obtain ⟨hlines, -⟩ := hs
    exact powerWf_of_on (by simpa using hpower) (by simpa [hpower] using hlines)
  · exact hticked .checked ht
  · exact hticked .unchecked ht

/-- The power commands write the lines of the state they reach; the others write neither lines nor latch. -/
theorem powerWf_effect {i : Instr} {s t : State} (hloop : i ≠ .loop) (hs : s.powerWf) (h : Effect s i t) : t.powerWf := by
  cases h with
  | poweredUp | powerUpTripped => exact powerWf_of_on rfl rfl
  | poweredDown | deinited => exact powerWf_of_off rfl rfl rfl
  | loopHeld | loopRaised | loopTripped | loopTicked => exact absurd rfl hloop
  | answered | created | driven | fnSet | estopped | popped | emitted | badFrame =>
    exact powerWf_of_samePower hs ⟨by simp, by simp, by simp⟩

theorem powerWf_exec {i : Instr} {s t : State} (hs : s.powerWf) (h : exec i s = .next t) : t.powerWf := by
  by_cases hloop : i = .loop
  · subst hloop
    exact powerWf_execLoop hs h
  · exact powerWf_effect hloop hs (effect_of_exec h)

/-- Settles O50: reset is PoweredOff, and every instruction keeps the lines and the latch with the power state. -/
theorem stepKeepsLinesAndLatch : Obligations.StepKeepsLinesAndLatch := by
  unfold Obligations.StepKeepsLinesAndLatch
  intro s t hs h
  exact step_keeps_of_exec (fun c => powerWf_of_off (s := State.resetWith c) rfl rfl rfl)
    (fun s e o hs => powerWf_of_samePower (s := s) hs ⟨rfl, rfl, rfl⟩) (fun i s t _ => powerWf_exec) hs h

/-! ### The length fault (R190, R304) -/

/-- The sticky bit of InvalidInstructionLengthError is as it was (R25, R304). -/
def SameLengthBit (s t : State) : Prop := t.fault.getLsbD 3 = s.fault.getLsbD 3

/-- No other fault kind has this sticky bit. -/
theorem sameLengthBit_raise {k : FaultKind} (hk : k ≠ .invalidLength) {s u : State} (hu : u.fault = s.fault) :
    SameLengthBit s (raise k u) := by
  have hbit : k.bit.getLsbD 3 = false := by
    cases k with
    | invalidLength => exact absurd rfl hk
    | overcurrent | powerOff | unsupportedMode => rfl
  rw [SameLengthBit, raise_fault, hu, BitVec.getLsbD_or, hbit, Bool.or_false]

/-- The packets of a rebuild have legal lengths, so the one fault of a tick is UnsupportedModeError. -/
theorem sameLengthBit_tick {s t : State} (h : tick s = .next t) : SameLengthBit s t := by
  rcases tick_cases h with ⟨-, rfl⟩ | ⟨-, -, _, -, -, rfl⟩ | ⟨-, -, -, rfl⟩ | ⟨-, -, rfl⟩
  · rfl
  · rfl
  · exact sameLengthBit_raise (by decide) (by simp)
  · rfl

/-- Whatever a LOOP raises, it is not the length fault. -/
theorem sameLengthBit_execLoop {s t : State} (h : execLoop s = .next t) : SameLengthBit s t := by
  have hticked : ∀ {b}, LoopReaches s b → tick b = .next t → SameLengthBit s t := fun hb ht => by
    obtain ⟨hfault, -⟩ := fault_cfg_loopReaches hb
    rw [SameLengthBit, ← hfault]
    exact sameLengthBit_tick ht
  rcases execLoop_cases h with
    ⟨-, rfl⟩ | ⟨-, ⟨-, rfl⟩ | ⟨-, -, rfl⟩ | ⟨-, -, -, -, rfl⟩ | ⟨-, -, -, -, ht⟩ | ⟨-, -, -, ht⟩⟩
  · rfl
  · exact sameLengthBit_raise (by decide) (by simp)
  · exact sameLengthBit_raise (by decide) (by simp)
  · exact sameLengthBit_raise (by decide) (by simp)
  · exact hticked .checked ht
  · exact hticked .unchecked ht

/-- Beside LOOP and the emissions, an instruction raises OvercurrentFault or nothing. -/
theorem sameLengthBit_effect {i : Instr} {s t : State} (hloop : i ≠ .loop) (hemits : isEmission i ≠ true)
    (h : Effect s i t) : SameLengthBit s t := by
  cases h with
  | powerUpTripped => exact sameLengthBit_raise (by decide) (by simp)
  | emitted e hi => exact absurd hi hemits
  | badFrame => exact absurd rfl hemits
  | loopHeld | loopRaised | loopTripped | loopTicked => exact absurd rfl hloop
  | answered | created | driven | fnSet | poweredUp | poweredDown | deinited | estopped | popped =>
    simp [SameLengthBit]

/-- A well-formed instruction does not record the length fault: an emission of the opcode table has a legal length. -/
theorem sameLengthBit_exec {i : Instr} {s t : State} (hwf : i.wf = true) (h : exec i s = .next t) :
    SameLengthBit s t := by
  by_cases hemits : isEmission i = true
  · obtain ⟨e, rfl⟩ := emission_frame hemits hwf h
    rfl
  · by_cases hloop : i = .loop
    · subst hloop
      exact sameLengthBit_execLoop h
    · exact sameLengthBit_effect hloop hemits (effect_of_exec h)

/-- Settles O53: a step runs well-formed instructions only, and those leave the length fault's bit. -/
theorem stepNeverRecordsTheLengthFault : Obligations.StepNeverRecordsTheLengthFault := by
  unfold Obligations.StepNeverRecordsTheLengthFault
  intro s t hs h
  exact step_keeps_of_exec (P := fun u => u.fault.getLsbD 3 = false) (fun c => by simp [State.resetWith]) (fun s e o hs => hs)
    (fun i s t hwf hs h => (sameLengthBit_exec hwf h).trans hs) hs h

/-! ### The statuses of the commands (R97, R305) -/

/-- The status lies in bits 3:0 of the response (R97). -/
theorem extractLsb'_rspWord_status (st : BitVec 4) (v : BitVec 8) : (rspWord st v).extractLsb' 0 4 = st := by
  apply BitVec.eq_of_getLsbD_eq
  intro j hj
  have hj8 : j < 8 := by omega
  have hj16 : j < 16 := by omega
  simp [rspWord, hj, hj8, hj16]

/-- Bits 7:4 of the response are 0 (R97). -/
theorem extractLsb'_rspWord_zeros (st : BitVec 4) (v : BitVec 8) : (rspWord st v).extractLsb' 4 4 = 0#4 := by
  apply BitVec.eq_of_getLsbD_eq
  intro j hj
  have hj8 : 4 + j < 8 := by omega
  simp [rspWord, hj, hj8]

/-- The statuses of LOOP in the table of R305. -/
def loopStatuses : List (BitVec 4) :=
  [statusOk, FaultKind.overcurrent.status, FaultKind.powerOff.status, FaultKind.unsupportedMode.status]

/-- The statuses that the table of R305 gives a command. -/
def statusesOf : Instr → List (BitVec 4)
  | .create _ _ _ | .drive _ _ _ | .setFn _ _ _ | .getFn _ _ => [statusOk, statusRefused]
  | .beginCmd | .powerOn => [statusOk, FaultKind.overcurrent.status]
  | .loop => loopStatuses
  | _ => [statusOk]

/-- What led from `s` to `t` ended with its one response, and that has a status in `l` (R97). -/
def EndsIn (l : List (BitVec 4)) (s t : State) : Prop :=
  ∃ st ∈ l, ∃ (v : BitVec 8) (u : State), u.obs.responses = s.obs.responses ∧ t = respond st v u

theorem endsIn_respond {l : List (BitVec 4)} {st : BitVec 4} (hst : st ∈ l) (v : BitVec 8) {s u : State}
    (hu : u.obs.responses = s.obs.responses) : EndsIn l s (respond st v u) :=
  ⟨st, hst, v, u, hu, rfl⟩

theorem endsIn_ok {l : List (BitVec 4)} (hst : statusOk ∈ l) {s u : State} (hu : u.obs.responses = s.obs.responses) :
    EndsIn l s (ok u) :=
  endsIn_respond hst _ hu

theorem endsIn_refuse {l : List (BitVec 4)} (hst : statusRefused ∈ l) (s : State) : EndsIn l s (refuse s) :=
  endsIn_respond hst _ rfl

theorem endsIn_raise {l : List (BitVec 4)} {k : FaultKind} (hst : k.status ∈ l) {s u : State}
    (hu : u.obs.responses = s.obs.responses) : EndsIn l s (raise k u) :=
  endsIn_respond (u := recordFault k u) hst _ hu

/-- The response that such an end leaves at the port and in the record. -/
theorem response_of_endsIn {l : List (BitVec 4)} {s t : State} (h : EndsIn l s t) :
    AnsweredOnce s t ∧ t.port.rspValid = true ∧ t.port.rsp.extractLsb' 4 4 = 0#4 ∧ t.port.rsp.extractLsb' 0 4 ∈ l := by
  obtain ⟨st, hst, v, u, hu, rfl⟩ := h
  refine ⟨?_, rfl, extractLsb'_rspWord_zeros st v, (extractLsb'_rspWord_status st v).symm ▸ hst⟩
  rw [AnsweredOnce, ← hu]
  rfl

/-- CREATE is refused, or answers OK with the handle (R175). -/
theorem endsIn_create {a : BitVec 14} {l : Bool} {m : BitVec 2} {s t : State} (h : exec (.create a l m) s = .next t) :
    EndsIn [statusOk, statusRefused] s t := by
  by_cases hrefused : m = 3#2 ∨ (l = false ∧ 127 < a.toNat) ∨ s.nLoco = s.cfg.nLoco
  · obtain rfl := Host.Outcome.next.inj ((exec_create_of_refused hrefused).symm.trans h)
    exact endsIn_refuse (by simp) s
  · obtain ⟨hm, ha, hn⟩ : m ≠ 3#2 ∧ (l = false → a.toNat ≤ 127) ∧ s.nLoco ≠ s.cfg.nLoco := by simpa using hrefused
    obtain rfl := Host.Outcome.next.inj ((exec_create_of_free hm ha hn).symm.trans h)
    exact endsIn_respond (by simp) _ rfl

/-- DRIVE is refused without a slot, else answers OK (R176). -/
theorem endsIn_drive {hd : BitVec 8} {dir : Bool} {speed : BitVec 8} {s t : State}
    (h : exec (.drive hd dir speed) s = .next t) : EndsIn [statusOk, statusRefused] s t := by
  cases hv : s.slot? hd with
  | none =>
    obtain rfl := Host.Outcome.next.inj ((exec_drive_of_no_slot dir speed hv).symm.trans h)
    exact endsIn_refuse (by simp) s
  | some v =>
    obtain rfl := Host.Outcome.next.inj ((exec_drive_of_slot dir speed hv).symm.trans h)
    exact endsIn_ok (by simp) rfl

/-- SET_FN is refused without a slot, else answers OK, also where it ignores the index (R154). -/
theorem endsIn_setFn {hd : BitVec 8} {fn : BitVec 5} {on : Bool} {s t : State}
    (h : exec (.setFn hd fn on) s = .next t) : EndsIn [statusOk, statusRefused] s t := by
  cases hv : s.slot? hd with
  | none =>
    obtain rfl := Host.Outcome.next.inj ((exec_setFn_of_no_slot fn on hv).symm.trans h)
    exact endsIn_refuse (by simp) s
  | some v =>
    rcases le_or_gt fn.toNat maxFn with hf | hf
    · obtain rfl := Host.Outcome.next.inj ((exec_setFn_of_slot on hv hf).symm.trans h)
      exact endsIn_ok (by simp) rfl
    · obtain rfl := Host.Outcome.next.inj ((exec_setFn_of_index_gt on hv hf).symm.trans h)
      exact endsIn_ok (by simp) rfl

/-- GET_FN is refused without a slot, else answers OK with the bit (R156). -/
theorem endsIn_getFn {hd : BitVec 8} {fn : BitVec 5} {s t : State} (h : exec (.getFn hd fn) s = .next t) :
    EndsIn [statusOk, statusRefused] s t := by
  cases hv : s.slot? hd with
  | none =>
    obtain rfl := Host.Outcome.next.inj ((exec_getFn_of_no_slot fn hv).symm.trans h)
    exact endsIn_refuse (by simp) s
  | some v =>
    obtain rfl := Host.Outcome.next.inj ((exec_getFn_of_slot fn hv).symm.trans h)
    exact endsIn_respond (by simp) _ rfl

/-- POWER_ON and BEGIN answer OK or the status of OvercurrentFault (R270, R272). -/
theorem endsIn_powerUp (s : State) : EndsIn [statusOk, FaultKind.overcurrent.status] s (powerUp s) := by
  rcases powerUp_cases s with ⟨-, h⟩ | ⟨-, h⟩
  · rw [h]
    exact endsIn_ok (by simp) (by simp)
  · rw [h]
    exact endsIn_raise (by simp) (by simp)

/-- A tick answers OK or the status of UnsupportedModeError (R223, R228). -/
theorem endsIn_tick {l : List (BitVec 4)} (hok : statusOk ∈ l) (hmode : FaultKind.unsupportedMode.status ∈ l)
    {s t : State} (h : tick s = .next t) : EndsIn l s t := by
  rcases tick_cases h with ⟨-, rfl⟩ | ⟨-, -, _, -, -, rfl⟩ | ⟨-, -, -, rfl⟩ | ⟨-, -, rfl⟩
  · exact endsIn_ok hok rfl
  · exact endsIn_ok hok rfl
  · exact endsIn_raise hmode rfl
  · exact endsIn_ok hok rfl

/-- A LOOP that is not held ends at one of its tests, or as its tick (R275). -/
theorem endsIn_loop {s t : State} (h : exec .loop s = .next t) (hh : t.port.held = false) :
    EndsIn loopStatuses s t := by
  have hticked : ∀ {b}, LoopReaches s b → tick b = .next t → EndsIn loopStatuses s t := fun hb ht => by
    rw [EndsIn, ← obs_loopReaches hb]
    exact endsIn_tick (by simp [loopStatuses]) (by simp [loopStatuses]) ht
  rcases execLoop_cases h with
    ⟨-, rfl⟩ | ⟨-, ⟨-, rfl⟩ | ⟨-, -, rfl⟩ | ⟨-, -, -, -, rfl⟩ | ⟨-, -, -, -, ht⟩ | ⟨-, -, -, ht⟩⟩
  · cases hh
  · exact endsIn_raise (by simp [loopStatuses]) (by simp)
  · exact endsIn_raise (by simp [loopStatuses]) (by simp)
  · exact endsIn_raise (by simp [loopStatuses]) (by simp)
  · exact hticked .checked ht
  · exact hticked .unchecked ht

/-- A command that is not held ends with a response, of a status that R305 gives it. -/
theorem endsIn_statusesOf {i : Instr} {s t : State} (hi : i.isCommand = true) (h : exec i s = .next t)
    (hh : t.port.held = false) : EndsIn (statusesOf i) s t := by
  cases i with
  | create a l m => exact endsIn_create h
  | drive hd dir speed => exact endsIn_drive h
  | setFn hd fn on => exact endsIn_setFn h
  | getFn hd fn => exact endsIn_getFn h
  | loop => exact endsIn_loop h hh
  | powerOn | beginCmd => injection h with h; exact h ▸ endsIn_powerUp s
  | powerOff | deinit | estop => injection h with h; exact h ▸ endsIn_ok (List.mem_singleton.mpr rfl) rfl
  | _ => cases hi

/-- Settles O58: the response at the port is the one the command ended with, and its status is in the command's row. -/
theorem commandsAnswerTheirStatuses : Obligations.CommandsAnswerTheirStatuses := by
  unfold Obligations.CommandsAnswerTheirStatuses
  intro i s t hi h hh
  obtain ⟨honce, hvalid, hzeros, hstatus⟩ := response_of_endsIn (endsIn_statusesOf hi h hh)
  refine ⟨honce, hvalid, hzeros, ?_⟩
  cases i with
  | create | drive | setFn | getFn | beginCmd | powerOn => exact List.mem_pair.mp hstatus
  | loop =>
    have hloop : t.port.rsp.extractLsb' 0 4 ∈ loopStatuses := hstatus
    simpa [loopStatuses, statusOk, FaultKind.status] using hloop
  | deinit | estop | powerOff => exact List.mem_singleton.mp hstatus
  | _ => cases hi

end Sys2Proof.Machine
end

section
/-! SUPPORT. The statements of 70_reset_and_hazards.md: the step that takes a rising `rst`, and the steps under it (R33, R340). -/

namespace Sys2Proof.Machine

/-- An oldest input that is no command word is the one a step takes, at a ready port and past a held LOOP alike
(R67, R226). -/
theorem fetch_of_oldest_other {s : State} {n : Input} {rest : List Input} (hr : s.env.rst = false)
    (hc : s.port.held = true → s.holdCond = true) (hn : isCmdInput n = false) (hi : s.env.inputs = n :: rest) :
    fetch s = runInput n (setInputs rest s) := by
  cases hh : s.port.held with
  | false => exact fetch_of_ready hr hh hi
  | true =>
    have htake : takeOther s.env.inputs = some (n, rest) := by
      rw [hi]
      cases n with
      | cmd w => cases hn
      | rst | pop | wire | frame => rfl
    exact fetch_of_held hr hh (hc hh) htake

/-- Settles O4: the step under `rst` is the block's reset, in the environment that `step_in_reset` describes. -/
theorem underRstNothingIsTaken : Obligations.UnderRstNothingIsTaken := by
  unfold Obligations.UnderRstNothingIsTaken
  intro s hr
  obtain ⟨e, hstep, hinputsAndDraws⟩ := step_in_reset hr
  exact ⟨{ s.blockReset with env := e }, hstep, rfl, hinputsAndDraws⟩

/-- Settles O3: the level of `rst` is the input taken, and at 1 it resets the block. -/
theorem rstInputResetsTheBlock : Obligations.RstInputResetsTheBlock := by
  unfold Obligations.RstInputResetsTheBlock
  intro s rest hr hc hi
  exact step_of_fetch_settled (fetch_of_oldest_other hr hc rfl hi)

end Sys2Proof.Machine
end
